-- ==== Sys2Proof/Word.lean ====
section
/-! DEFINITION. The data types the machine computes with: 32-bit words, bytes, and text as a list of
characters (a list, so that Lean's kernel can evaluate the resolver on it). -/

namespace Sys2Proof

/-- A register or data value: 00_scope.md R9 `XLEN` = 32. -/
abbrev Word := BitVec 32

/-- A `u8` of 00_scope.md R11. -/
abbrev Byte := BitVec 8

/-- A mnemonic, an operand token, a label name or the console: a string, as its characters. -/
abbrev Text := List Char

end Sys2Proof
end

