-- ==== Sys2Proof/Config.lean ====
section
/-! DEFINITION. The implementation parameters of 00_scope.md R9, and the free values: constants without a
body that stand for what the spec does not fix (60_exceptions.md R210, R213). -/

namespace Sys2Proof

/-- `OPERAND_COUNT_POLICY` of 00_scope.md R9: what a wrong operand count does (30_encoding.md R88). -/
inductive CountPolicy where
  | noop
  | fault
  deriving DecidableEq, Repr

/-- The parameters a model takes as arguments (00_scope.md R9). The machine holds one of these in its
state and no step changes it, so a statement about every state is a statement about every parameter. -/
structure Config where
  /-- `MEM_SIZE`: bytes in each bank. -/
  memSize : Nat
  /-- `SP_RESET`: ESP after RESET. -/
  spReset : Word
  /-- `LCD_W`: pixels in a row. -/
  lcdW : Nat
  /-- `LCD_H`: rows of pixels. -/
  lcdH : Nat
  /-- `LCD_BASE`: the address of pixel 0. -/
  lcdBase : Nat
  /-- `KBD_BASE`: the address of the keyboard status register. -/
  kbdBase : Nat
  /-- `OPERAND_COUNT_POLICY`. -/
  countPolicy : CountPolicy
  /-- `SHL_CF_RAW_COUNT`: SHL takes CF from the raw count. -/
  shlCfRawCount : Bool
  deriving DecidableEq, Repr

/-- The parameters of a new engine instance in this model: the spec's defaults, and for the OPEN ones the
example values that 95_test_vectors.md uses throughout. DESIGN CHOICE, unsafe: log entry 1. -/
def Config.initial : Config where
  memSize := 65536
  spReset := 0x10000
  lcdW := 16
  lcdH := 16
  lcdBase := 0x10000
  kbdBase := 0x10100
  countPolicy := .noop
  shlCfRawCount := true

/-- A flag draw (60_exceptions.md R213), by the number of the draw. Log entry 8. -/
opaque Config.drawBit : Nat → Bool

/-- A keycode draw (60_exceptions.md R215), by the number of the draw. Log entry 8. -/
opaque Config.drawByte : Nat → Byte

/-- A general register after a fault (60_exceptions.md R210), by draw and register index. Log entry 6. -/
opaque Config.faultRegister : Nat → Nat → Word

/-- One of the four flags after a fault (60_exceptions.md R210), by draw and bit position. Log entry 6. -/
opaque Config.faultFlag : Nat → Nat → Bool

/-- What bank A holds after a fault (60_exceptions.md R210), by draw. Log entry 6. -/
opaque Config.faultBankA : Nat → List (Nat × Byte)

/-- What the pixel buffer holds after a fault (60_exceptions.md R210), by draw. Log entry 6. -/
opaque Config.faultPixels : Nat → List (Nat × Byte)

/-- The keyboard queue after a fault (60_exceptions.md R210), by draw. Log entry 6. -/
opaque Config.faultQueue : Nat → List (Byte × Bool)

/-- `lastCode` after a fault (60_exceptions.md R210), by draw. Log entry 6. -/
opaque Config.faultLastCode : Nat → Byte

/-- Whether `lastState` says pressed after a fault (60_exceptions.md R210), by draw. Log entry 6. -/
opaque Config.faultLastPressed : Nat → Bool

end Sys2Proof
end

