-- ==== Sys2Proof/Syntax.lean ====
section
/-! DEFINITION. Instruction records, resolved operands, and the instruction type: one constructor for each of
the 75 rows of opcode_table.json (30_encoding.md R67 to R81). -/

namespace Sys2Proof

/-- The eight 32-bit registers (10_state.md R21). -/
inductive Reg32 where
  | eax | ecx | edx | ebx | esp | ebp | esi | edi
  deriving DecidableEq, Repr

/-- The eight 8-bit sub-registers (10_state.md R24). -/
inductive Reg8 where
  | al | cl | dl | bl | ah | ch | dh | bh
  deriving DecidableEq, Repr

/-- The five shapes of a bracketed memory expression (30_encoding.md R76). -/
inductive MemShape where
  /-- `[REG]` -/
  | reg (r : Reg32)
  /-- `[REG+n]` -/
  | regPlus (r : Reg32) (n : Word)
  /-- `[REG-n]` -/
  | regMinus (r : Reg32) (n : Word)
  /-- `[REG+REG2]` -/
  | regReg (r r2 : Reg32)
  /-- `[n]` -/
  | abs (n : Word)
  deriving DecidableEq, Repr

/-- What the resolver makes of an operand token: one of the four kinds of 30_encoding.md R79, or one of the
two ways a token fails. A failed token is kept, because it stops the instruction when it executes, not when
the program is loaded (30_encoding.md R77). -/
inductive Operand where
  | reg32 (r : Reg32)
  | reg8 (r : Reg8)
  | imm (v : Word)
  | mem (m : MemShape)
  /-- A token that raises `ParseError` (30_encoding.md R75, R76). -/
  | malformed (tok : Text)
  /-- A token with an upper-case `0X` or `0B` literal, which the spec refuses (30_encoding.md R75). -/
  | unshown (tok : Text)
  deriving DecidableEq, Repr

/-- An instruction record (30_encoding.md R67). No rule reads `raw`. -/
structure Record where
  line : Int
  mnemonic : Text
  operands : List Text
  raw : Text
  deriving DecidableEq, Repr

/-- The 75 admitted mnemonics, by family (30_encoding.md R71). -/
inductive Mnemonic where
  -- data movement
  | mov | cmovo | cmovno | cmovb | cmovae | cmove | cmovz | cmovne | cmovnz | cmovbe | cmova | cmovs | cmovns | cmovl | cmovge | cmovle | cmovg | push | pop | lahf | sahf | bswap
  -- arithmetic
  | add | sub | cmp | inc | dec | neg | xadd
  -- logical and bit scan
  | and | or | xor | test | bsf | bsr
  -- shift and rotate
  | shl | shr | sar | rol | ror | rcl | rcr
  -- multiply and divide
  | mul | imul | div | idiv
  -- string
  | lods | stos | movs | scas | cmps
  -- interrupt and system
  | int | int3 | iret | hlt
  -- control flow
  | jmp | je | jne | jg | jge | jl | jle | js | jns | ja | jae | jb | jbe | call | ret | loop | loope | loopne | loopz | loopnz
  deriving DecidableEq, Repr

/-- An instruction: its mnemonic and its operands, in order and in whatever number the record gives
(30_encoding.md R69, R88). The control-flow instructions hold label names (30_encoding.md R80). -/
inductive Instr where
  -- data movement
  | mov (ops : List Operand)
  | cmovo (ops : List Operand)
  | cmovno (ops : List Operand)
  | cmovb (ops : List Operand)
  | cmovae (ops : List Operand)
  | cmove (ops : List Operand)
  | cmovz (ops : List Operand)
  | cmovne (ops : List Operand)
  | cmovnz (ops : List Operand)
  | cmovbe (ops : List Operand)
  | cmova (ops : List Operand)
  | cmovs (ops : List Operand)
  | cmovns (ops : List Operand)
  | cmovl (ops : List Operand)
  | cmovge (ops : List Operand)
  | cmovle (ops : List Operand)
  | cmovg (ops : List Operand)
  | push (ops : List Operand)
  | pop (ops : List Operand)
  | lahf (ops : List Operand)
  | sahf (ops : List Operand)
  | bswap (ops : List Operand)
  -- arithmetic
  | add (ops : List Operand)
  | sub (ops : List Operand)
  | cmp (ops : List Operand)
  | inc (ops : List Operand)
  | dec (ops : List Operand)
  | neg (ops : List Operand)
  | xadd (ops : List Operand)
  -- logical and bit scan
  | and (ops : List Operand)
  | or (ops : List Operand)
  | xor (ops : List Operand)
  | test (ops : List Operand)
  | bsf (ops : List Operand)
  | bsr (ops : List Operand)
  -- shift and rotate
  | shl (ops : List Operand)
  | shr (ops : List Operand)
  | sar (ops : List Operand)
  | rol (ops : List Operand)
  | ror (ops : List Operand)
  | rcl (ops : List Operand)
  | rcr (ops : List Operand)
  -- multiply and divide
  | mul (ops : List Operand)
  | imul (ops : List Operand)
  | div (ops : List Operand)
  | idiv (ops : List Operand)
  -- string
  | lods (ops : List Operand)
  | stos (ops : List Operand)
  | movs (ops : List Operand)
  | scas (ops : List Operand)
  | cmps (ops : List Operand)
  -- interrupt and system
  | int (ops : List Operand)
  | int3 (ops : List Operand)
  | iret (ops : List Operand)
  | hlt (ops : List Operand)
  -- control flow
  | jmp (ops : List Text)
  | je (ops : List Text)
  | jne (ops : List Text)
  | jg (ops : List Text)
  | jge (ops : List Text)
  | jl (ops : List Text)
  | jle (ops : List Text)
  | js (ops : List Text)
  | jns (ops : List Text)
  | ja (ops : List Text)
  | jae (ops : List Text)
  | jb (ops : List Text)
  | jbe (ops : List Text)
  | call (ops : List Text)
  | ret (ops : List Text)
  | loop (ops : List Text)
  | loope (ops : List Text)
  | loopne (ops : List Text)
  | loopz (ops : List Text)
  | loopnz (ops : List Text)
  deriving DecidableEq, Repr

/-- The mnemonic of an instruction. -/
def Instr.mnemonic : Instr → Mnemonic
  | .mov _ => .mov
  | .cmovo _ => .cmovo
  | .cmovno _ => .cmovno
  | .cmovb _ => .cmovb
  | .cmovae _ => .cmovae
  | .cmove _ => .cmove
  | .cmovz _ => .cmovz
  | .cmovne _ => .cmovne
  | .cmovnz _ => .cmovnz
  | .cmovbe _ => .cmovbe
  | .cmova _ => .cmova
  | .cmovs _ => .cmovs
  | .cmovns _ => .cmovns
  | .cmovl _ => .cmovl
  | .cmovge _ => .cmovge
  | .cmovle _ => .cmovle
  | .cmovg _ => .cmovg
  | .push _ => .push
  | .pop _ => .pop
  | .lahf _ => .lahf
  | .sahf _ => .sahf
  | .bswap _ => .bswap
  | .add _ => .add
  | .sub _ => .sub
  | .cmp _ => .cmp
  | .inc _ => .inc
  | .dec _ => .dec
  | .neg _ => .neg
  | .xadd _ => .xadd
  | .and _ => .and
  | .or _ => .or
  | .xor _ => .xor
  | .test _ => .test
  | .bsf _ => .bsf
  | .bsr _ => .bsr
  | .shl _ => .shl
  | .shr _ => .shr
  | .sar _ => .sar
  | .rol _ => .rol
  | .ror _ => .ror
  | .rcl _ => .rcl
  | .rcr _ => .rcr
  | .mul _ => .mul
  | .imul _ => .imul
  | .div _ => .div
  | .idiv _ => .idiv
  | .lods _ => .lods
  | .stos _ => .stos
  | .movs _ => .movs
  | .scas _ => .scas
  | .cmps _ => .cmps
  | .int _ => .int
  | .int3 _ => .int3
  | .iret _ => .iret
  | .hlt _ => .hlt
  | .jmp _ => .jmp
  | .je _ => .je
  | .jne _ => .jne
  | .jg _ => .jg
  | .jge _ => .jge
  | .jl _ => .jl
  | .jle _ => .jle
  | .js _ => .js
  | .jns _ => .jns
  | .ja _ => .ja
  | .jae _ => .jae
  | .jb _ => .jb
  | .jbe _ => .jbe
  | .call _ => .call
  | .ret _ => .ret
  | .loop _ => .loop
  | .loope _ => .loope
  | .loopne _ => .loopne
  | .loopz _ => .loopz
  | .loopnz _ => .loopnz

end Sys2Proof
end

