-- ==== Sys2Proof/Machine/State.lean ====
section
/-! DEFINITION. The machine's state, as plain data, the errors the engine raises, the two ways a step of the model
stops, and the state of a new engine instance (10_state.md). -/

namespace Sys2Proof.Machine

/-- The eight general registers (10_state.md R20, R21). -/
structure Regs where
  eax : Word
  ecx : Word
  edx : Word
  ebx : Word
  esp : Word
  ebp : Word
  esi : Word
  edi : Word
  deriving DecidableEq, Repr

/-- The compatibility mode (10_state.md R33). -/
inductive Mode where
  | teaching
  | strict
  deriving DecidableEq, Repr

/-- A byte array by index: addresses strictly rising, no entry equal to 0, which is what an unlisted address reads
as. RESET clears every byte to 0 (10_state.md R42), so nothing is listed after it. -/
abbrev Memory := List Host.Cell

/-- The canonical form of a byte array. -/
abbrev Memory.wf (m : Memory) : Prop := (m.map Prod.fst).Pairwise (· < ·) ∧ ∀ c ∈ m, c.2 ≠ 0

/-- An error the engine raises: the fault kinds of 60_exceptions.md R208 with the information each carries. -/
inductive EngineFault where
  /-- A malformed operand token (30_encoding.md R75 to R77). -/
  | parseError (tok : Text)
  /-- A mnemonic not in the semantics table. No step of the model raises it (60_exceptions.md R208). -/
  | unknownInstruction (mnemonic : Text)
  /-- A missing jump, call or loop label (48_control_flow.md R183). -/
  | controlFlowFault (mnemonic : Mnemonic) (name : Text)
  /-- "Memory-to-memory MOV not allowed" (41_data_movement.md R114). -/
  | modePolicyError
  /-- A write to the byte address, which is out of range (20_memory.md R56). -/
  | memoryOutOfRange (addr : Nat)
  /-- READ_IO or WRITE_IO outside the device ranges (20_memory.md R61). -/
  | unknownIOAddress (addr : Nat)
  /-- A wrong operand count under the fault policy (30_encoding.md R88). -/
  | badOperandCount (mnemonic : Mnemonic)
  deriving DecidableEq, Repr

/-- What the last STEP or EXEC gave back to the host. The model's own field: log entry 9. -/
inductive Report where
  /-- No STEP yet, or an operation that returns nothing. -/
  | nothing
  /-- STEP returned this line, or −1 (48_control_flow.md R178). -/
  | returned (line : Int)
  /-- STEP or EXEC raised this error (60_exceptions.md R209). -/
  | raised (error : EngineFault)
  deriving DecidableEq, Repr

/-- Everything the spec gives the machine (10_state.md), and the three fields of the model's own: `cfg`, `draws`
and `report`. -/
structure State where
  /-- The implementation parameters (00_scope.md R9); nothing changes them. The model's own: log entry 1. -/
  cfg : Config
  /-- 10_state.md R20. -/
  regs : Regs
  /-- The flag bitset F (10_state.md R25). -/
  flags : Word
  /-- The index of the instruction (10_state.md R28). -/
  pc : Nat
  /-- The call stack, the last pushed value first (10_state.md R30). -/
  cs : List Nat
  /-- 10_state.md R29. -/
  halted : Bool
  /-- 10_state.md R29. -/
  faulted : Bool
  /-- Host-owned (10_state.md R31). -/
  running : Bool
  /-- 10_state.md R33. -/
  mode : Mode
  /-- Bank A, the data address space's memory (10_state.md R34). -/
  bankA : Memory
  /-- Bank B, which no instruction reaches (20_memory.md R46). -/
  bankB : Memory
  /-- The LCD pixel buffer (10_state.md R35). -/
  pixels : Memory
  /-- The keyboard queue, the oldest event first (10_state.md R36). -/
  kq : List (Byte × Bool)
  /-- 10_state.md R36. -/
  lastCode : Byte
  /-- 1 pressed, 0 released (10_state.md R36). -/
  lastState : Byte
  /-- The console output buffer (10_state.md R37). -/
  console : Text
  /-- The breakpoint set, as its lines in rising order (10_state.md R38). Log entry 20. -/
  bps : List Int
  /-- The loaded program (10_state.md R39). -/
  prog : List Record
  /-- The label table (10_state.md R39). -/
  labels : List (Text × Nat)
  /-- How many free values have been drawn (60_exceptions.md R213). The model's own: log entry 8. -/
  draws : Nat
  /-- What the last STEP or EXEC gave back. The model's own: log entry 9. -/
  report : Report
  deriving DecidableEq, Repr

/-- Where the model gives a host operation no transition. -/
inductive Fault where
  /-- STEP or EXEC in the Faulted state, whose precondition is `not faulted` (48_control_flow.md R179,
  70_reset_and_hazards.md R228). Raised by the step before it fetches. Safe: the spec gives no transition. -/
  | stepWhileFaulted
  /-- Another host operation whose precondition fails (93_implementation_defined.md section 6). Raised by the host
  operations only. Safe: the spec gives no transition. -/
  | hostPrecondition
  deriving DecidableEq, Repr

/-- The refusals of 60_exceptions.md R212, with two of the model's own. Each is safe: nothing follows from it. -/
inductive Refusal where
  /-- An instruction without a meaning yet, raised by exec's arm. Safe. -/
  | notModelled (mnemonic : String)
  /-- A configuration that breaks 00_scope.md R9 or R10, raised before a step or a host operation. Safe. -/
  | badConfiguration
  /-- A mnemonic outside the 75 (30_encoding.md R70), raised by the step after it decodes. Safe. -/
  | mnemonicNotAdmitted
  /-- An operand form outside the table (30_encoding.md R81, R86, R87, R89), raised by the meanings. Safe. -/
  | formNotAdmitted
  /-- An 8-bit form outside 30_encoding.md R85, raised by the meanings. Safe. -/
  | byteFormNotShown
  /-- A `0X` or `0B` literal (30_encoding.md R75), raised by the meanings. Safe. -/
  | literalFormNotShown
  /-- A 4-byte access whose upper bytes reach a device (20_memory.md R54), raised by the accesses. Safe. -/
  | mixedMmioAccess
  /-- A masked count of 0 on a destination in a device's range (44_shift_rotate.md R150). Safe. -/
  | zeroCountMmio
  /-- DIV or IDIV with EDX not the extension of EAX (45_multiply_divide.md R162, R163). Safe. -/
  | divideDividendUnknown
  /-- IDIV of −2^31 by −1 (45_multiply_divide.md R163). Safe. -/
  | divideOverflow
  deriving DecidableEq, Repr

/-- The registers after RESET: 0 but for ESP (10_state.md R42). -/
def Regs.reset (spReset : Word) : Regs where
  eax := 0
  ecx := 0
  edx := 0
  ebx := 0
  esp := spReset
  ebp := 0
  esi := 0
  edi := 0

/-- A new engine instance with given parameters (10_state.md R42, R43). -/
def State.fresh (c : Config) : State where
  cfg := c
  regs := Regs.reset c.spReset
  flags := 0
  pc := 0
  cs := []
  halted := false
  faulted := false
  running := false
  mode := .teaching
  bankA := []
  bankB := []
  pixels := []
  kq := []
  lastCode := 0
  lastState := 0
  console := []
  bps := []
  prog := []
  labels := []
  draws := 0
  report := .nothing

/-- The machine right after reset: a new engine instance (10_state.md R43) with the parameters of log entry 1. -/
def State.reset : State := State.fresh Config.initial

end Sys2Proof.Machine
end

