-- ==== Sys2Proof/Machine/Memory.lean ====
section
/-! DEFINITION. Reading and writing one byte of a byte array: a memory bank or the pixel buffer. -/

namespace Sys2Proof.Machine

/-- Every index of the list is below a bound. -/
abbrev Memory.below (m : Memory) (n : Nat) : Prop := ∀ c ∈ m, c.1 < n

/-- The byte at an index; 0 where nothing is listed (10_state.md R42). -/
def Memory.read : Memory → Nat → Byte
  | [], _ => 0
  | (k, v) :: rest, a => if a = k then v else Memory.read rest a

/-- Set the byte at an index; a byte of 0 is left out of the list. -/
def Memory.write : Memory → Nat → Byte → Memory
  | [], a, b => if b = 0 then [] else [(a, b)]
  | (k, v) :: rest, a, b =>
    if a < k then (if b = 0 then (k, v) :: rest else (a, b) :: (k, v) :: rest)
    else if a = k then (if b = 0 then rest else (a, b) :: rest)
    else (k, v) :: Memory.write rest a b

/-- The byte array below a bound that a list of entries gives, an earlier entry over a later one. -/
def Memory.ofCells (bound : Nat) : List (Nat × Byte) → Memory
  | [] => []
  | (a, b) :: rest =>
    if a < bound then Memory.write (Memory.ofCells bound rest) a b else Memory.ofCells bound rest

/-- Write the low `n` bytes of a value at rising indices, the low byte first (20_memory.md R51, R52). -/
def Memory.writeBytes : Memory → Nat → Nat → Word → Memory
  | m, _, 0, _ => m
  | m, a, n + 1, v => Memory.writeBytes (Memory.write m a (v.setWidth 8)) (a + 1) n (v >>> 8)

end Sys2Proof.Machine
end

