-- ==== Sys2Proof/Machine/Ops.lean ====
section
/-! DEFINITION. The named operations over registers, memory, devices and control state, and entering the Faulted
state, the one way an instruction takes an error (60_exceptions.md R209, R210). There is no return from it by an
instruction (60_exceptions.md R218); RESET and LOAD leave it (Machine/HostOps.lean). -/

namespace Sys2Proof.Machine

-- ## The result of part of an instruction

/-- What part of an instruction gives: a value and the state it leaves, an error raised in that state, or a refusal
of the whole step (00_scope.md R14). -/
inductive Run (α : Type) where
  | done (a : α) (s : State)
  | raised (e : EngineFault) (s : State)
  | refused (r : Refusal)

/-- Go on from a value and the state it came with; an error or a refusal ends the instruction. -/
def Run.bind {α β : Type} (x : Run α) (k : α → State → Run β) : Run β :=
  match x with
  | .done a s => k a s
  | .raised e s => .raised e s
  | .refused r => .refused r

-- ## Registers (10_state.md R20 to R24)

/-- The value of a general register. -/
def Regs.get (g : Regs) : Reg32 → Word
  | .eax => g.eax
  | .ecx => g.ecx
  | .edx => g.edx
  | .ebx => g.ebx
  | .esp => g.esp
  | .ebp => g.ebp
  | .esi => g.esi
  | .edi => g.edi

/-- The registers with one of them replaced. -/
def Regs.set (g : Regs) (r : Reg32) (v : Word) : Regs :=
  match r with
  | .eax => { g with eax := v }
  | .ecx => { g with ecx := v }
  | .edx => { g with edx := v }
  | .ebx => { g with ebx := v }
  | .esp => { g with esp := v }
  | .ebp => { g with ebp := v }
  | .esi => { g with esi := v }
  | .edi => { g with edi := v }

/-- The register an 8-bit name is a view of (10_state.md R24). -/
def reg8Parent : Reg8 → Reg32
  | .al | .ah => .eax
  | .cl | .ch => .ecx
  | .dl | .dh => .edx
  | .bl | .bh => .ebx

/-- The lowest bit of that view (10_state.md R24). -/
def reg8Offset : Reg8 → Nat
  | .al | .cl | .dl | .bl => 0
  | .ah | .ch | .dh | .bh => 8

/-- `x[r]`. -/
def getReg (s : State) (r : Reg32) : Word := s.regs.get r

/-- `x[r] <- v`. -/
def setReg (s : State) (r : Reg32) (v : Word) : State := { s with regs := s.regs.set r v }

/-- `x8[s]` (00_scope.md R12). -/
def getReg8 (s : State) (r : Reg8) : Byte := (getReg s (reg8Parent r) >>> reg8Offset r).setWidth 8

/-- A word with the byte at a bit position replaced, its other 24 bits as they were (10_state.md R24). -/
def putByte (w : Word) (offset : Nat) (b : Byte) : Word :=
  (w &&& ~~~((0xFF : Word) <<< offset)) ||| (b.setWidth 32 <<< offset)

/-- `x8[s] <- v` (00_scope.md R12). -/
def setReg8 (s : State) (r : Reg8) (b : Byte) : State :=
  setReg s (reg8Parent r) (putByte (getReg s (reg8Parent r)) (reg8Offset r) b)

-- ## The other fields

/-- `F <- f`. -/
def setFlags (s : State) (f : Word) : State := { s with flags := f }

/-- `pc <- t`. -/
def setPc (s : State) (t : Nat) : State := { s with pc := t }

/-- The call stack replaced. -/
def setCs (s : State) (cs : List Nat) : State := { s with cs := cs }

/-- `halted <- true`. -/
def halt (s : State) : State := { s with halted := true }

/-- Bank A replaced. -/
def setBankA (s : State) (m : Memory) : State := { s with bankA := m }

/-- The pixel buffer replaced. -/
def setPixels (s : State) (m : Memory) : State := { s with pixels := m }

/-- `console <- console ++ c` (10_state.md R37). -/
def say (s : State) (c : Char) : State := { s with console := s.console ++ [c] }

/-- The report to the host replaced. -/
def setReport (s : State) (r : Report) : State := { s with report := r }

/-- The number of free values drawn, raised by `n`. -/
def addDraws (s : State) (n : Nat) : State := { s with draws := s.draws + n }

/-- One keyboard event taken off the queue, which becomes `rest` (60_exceptions.md R215). -/
def popEvent (s : State) (event : Byte × Bool) (rest : List (Byte × Bool)) : State :=
  { s with kq := rest, lastCode := event.1, lastState := if event.2 then 1 else 0 }

-- ## Address classes (20_memory.md R48)

/-- The four classes of address. -/
inductive Region where
  | lcd
  | kbd
  | ram
  | out
  deriving DecidableEq, Repr

/-- `classify` of 20_memory.md R48. -/
def classify (c : Config) (a : Nat) : Region :=
  if c.lcdBase ≤ a ∧ a < c.lcdBase + c.lcdW * c.lcdH then .lcd
  else if c.kbdBase ≤ a ∧ a < c.kbdBase + 3 then .kbd
  else if a < c.memSize then .ram
  else .out

/-- The address is a device's. -/
def isMmio (c : Config) (a : Nat) : Bool :=
  match classify c a with
  | .lcd => true
  | .kbd => true
  | .ram => false
  | .out => false

/-- One of the first `n` addresses from `a` is a device's. -/
def touchesMmio (c : Config) (a : Nat) : Nat → Bool
  | 0 => false
  | n + 1 => isMmio c a || touchesMmio c (a + 1) n

/-- An access that starts outside the devices and reaches one (20_memory.md R54). -/
def mixedMmio (c : Config) (a n : Nat) : Bool := !isMmio c a && touchesMmio c a n

/-- A power of two in 2..256 (00_scope.md R9). -/
def lcdSizeOk (n : Nat) : Bool := [2, 4, 8, 16, 32, 64, 128, 256].contains n

/-- Two ranges of addresses have none in common. -/
def rangesApart (a n b m : Nat) : Bool := a + n ≤ b || b + m ≤ a

/-- The configuration is well formed (00_scope.md R9, R10). -/
def configOk (c : Config) : Bool :=
  1 ≤ c.memSize && c.memSize ≤ 2 ^ 32 &&
  lcdSizeOk c.lcdW && lcdSizeOk c.lcdH &&
  c.lcdBase + c.lcdW * c.lcdH ≤ 2 ^ 32 && c.kbdBase + 3 ≤ 2 ^ 32 &&
  rangesApart c.lcdBase (c.lcdW * c.lcdH) c.kbdBase 3 &&
  rangesApart c.lcdBase (c.lcdW * c.lcdH) 0 c.memSize &&
  rangesApart c.kbdBase 3 0 c.memSize

-- ## Devices (60_exceptions.md R214, R215)

/-- The value of the keyboard status register (60_exceptions.md R215). -/
def keyStatus (s : State) : Byte := if s.kq.isEmpty then 0 else 1

/-- What the keycode register reads: the oldest event's code, and on an empty queue a free value
(60_exceptions.md R215, R213). -/
def keyCode (s : State) : Byte :=
  match s.kq with
  | [] => Config.drawByte s.draws
  | (code, _) :: _ => code

/-- What reading the keycode register does: it pops one event, and on an empty queue it only takes the free value
(60_exceptions.md R215). -/
def afterKeyCode (s : State) : State :=
  match s.kq with
  | [] => addDraws s 1
  | event :: rest => popEvent s event rest

/-- The value of `DevRead` at an address of a device. -/
def devPeek (s : State) (a : Nat) : Byte :=
  match classify s.cfg a with
  | .lcd => 0
  | .kbd =>
    if a = s.cfg.kbdBase then keyStatus s
    else if a = s.cfg.kbdBase + 1 then keyCode s
    else s.lastState
  | .ram => 0
  | .out => 0

/-- The state after `DevRead` at an address of a device. -/
def devTouch (s : State) (a : Nat) : State :=
  match classify s.cfg a with
  | .kbd => if a = s.cfg.kbdBase + 1 then afterKeyCode s else s
  | .lcd => s
  | .ram => s
  | .out => s

/-- `DevWrite`: a pixel's byte, or nothing for the keyboard (60_exceptions.md R214, R215). -/
def devPoke (s : State) (a : Nat) (b : Byte) : State :=
  match classify s.cfg a with
  | .lcd =>
    if a - s.cfg.lcdBase < s.cfg.lcdW * s.cfg.lcdH then setPixels s (s.pixels.write (a - s.cfg.lcdBase) b) else s
  | .kbd => s
  | .ram => s
  | .out => s

-- ## Memory (20_memory.md R49 to R57)

/-- A byte of ordinary memory; out of range it reads 0 (20_memory.md R55). -/
def bankByte (s : State) (a : Nat) : Byte := if a < s.cfg.memSize then s.bankA.read a else 0

/-- The `n` bytes of ordinary memory from `a`, the lowest address in the lowest byte (20_memory.md R51). -/
def loadBytes (s : State) (a : Nat) : Nat → Word
  | 0 => 0
  | n + 1 => (bankByte s a).setWidth 32 ||| (loadBytes s (a + 1) n <<< 8)

/-- `MemRead(addr, n)` is not refused (20_memory.md R49). -/
def memReadOk (s : State) (addr : Word) (n : Nat) : Bool := !mixedMmio s.cfg addr.toNat n

/-- The value of `MemRead(addr, n)` (20_memory.md R49). -/
def memPeek (s : State) (addr : Word) (n : Nat) : Word :=
  if isMmio s.cfg addr.toNat then (devPeek s addr.toNat).setWidth 32 else loadBytes s addr.toNat n

/-- The state after `MemRead(addr, n)`: only a device can change (20_memory.md R57). -/
def memTouch (s : State) (addr : Word) : State :=
  if isMmio s.cfg addr.toNat then devTouch s addr.toNat else s

/-- `MemRead(addr, n)` (20_memory.md R49). -/
def memRead (s : State) (addr : Word) (n : Nat) : Run Word :=
  if memReadOk s addr n then .done (memPeek s addr n) (memTouch s addr) else .refused .mixedMmioAccess

/-- `MemWrite(addr, n, v)` completes: one device access, or bytes of bank A alone (20_memory.md R50). -/
def memWriteOk (s : State) (addr : Word) (n : Nat) : Bool :=
  isMmio s.cfg addr.toNat || (!touchesMmio s.cfg addr.toNat n && addr.toNat + n ≤ s.cfg.memSize)

/-- The state after a `MemWrite(addr, n, v)` that completes (20_memory.md R50). -/
def memPoke (s : State) (addr : Word) (n : Nat) (v : Word) : State :=
  if isMmio s.cfg addr.toNat then devPoke s addr.toNat (v.setWidth 8)
  else setBankA s (s.bankA.writeBytes addr.toNat n v)

/-- `MemWrite(addr, n, v)` (20_memory.md R50). The error names the first byte address out of range; what the access
wrote below it is unspecified (20_memory.md R56), as everything is that `takeFault` frees. -/
def memWrite (s : State) (addr : Word) (n : Nat) (v : Word) : Run Unit :=
  if mixedMmio s.cfg addr.toNat n then .refused .mixedMmioAccess
  else if memWriteOk s addr n then .done () (memPoke s addr n v)
  else .raised (.memoryOutOfRange (max addr.toNat s.cfg.memSize)) s

-- ## The Faulted state (60_exceptions.md R209, R210)

/-- The error is raised by a check that comes before anything the instruction does: steps 1 to 5 of
60_exceptions.md R219, which "change no state". DEDUCED: log entry 7. -/
def EngineFault.early : EngineFault → Bool
  | .parseError _ => true
  | .unknownInstruction _ => true
  | .controlFlowFault _ _ => false
  | .modePolicyError => true
  | .memoryOutOfRange _ => false
  | .unknownIOAddress _ => true
  | .badOperandCount _ => true

/-- The code of a fault kind (60_exceptions.md R208). -/
def EngineFault.code : EngineFault → Nat
  | .parseError _ => 1
  | .unknownInstruction _ => 2
  | .controlFlowFault _ _ => 3
  | .modePolicyError => 4
  | .memoryOutOfRange _ => 5
  | .unknownIOAddress _ => 6
  | .badOperandCount _ => 7

/-- Four flags that nothing constrains, and reserved bits of 0 (10_state.md R26). -/
def freeFlags (n : Nat) : Word :=
  (if Config.faultFlag n 0 then 0x001 else 0) ||| (if Config.faultFlag n 6 then 0x040 else 0) |||
  (if Config.faultFlag n 7 then 0x080 else 0) ||| (if Config.faultFlag n 11 then 0x800 else 0)

/-- Registers that nothing constrains. -/
def freeRegs (n : Nat) : Regs where
  eax := Config.faultRegister n 0
  ecx := Config.faultRegister n 1
  edx := Config.faultRegister n 2
  ebx := Config.faultRegister n 3
  esp := Config.faultRegister n 4
  ebp := Config.faultRegister n 5
  esi := Config.faultRegister n 6
  edi := Config.faultRegister n 7

/-- Registers, flags, memory and devices unspecified (60_exceptions.md R210): free values. Bank B is not among
them, since it "changes only at RESET" (20_memory.md R46). Log entry 6. -/
def freeState (s : State) : State :=
  { s with
    regs := freeRegs s.draws
    flags := freeFlags s.draws
    bankA := Memory.ofCells s.cfg.memSize (Config.faultBankA s.draws)
    pixels := Memory.ofCells (s.cfg.lcdW * s.cfg.lcdH) (Config.faultPixels s.draws)
    kq := Config.faultQueue s.draws
    lastCode := Config.faultLastCode s.draws
    lastState := if Config.faultLastPressed s.draws then 1 else 0
    draws := s.draws + 1 }

/-- Enter the Faulted state with the error given to the host (60_exceptions.md R209): `faulted` is true, `halted`
false, pc, CS, mode, console, breakpoints, program, labels and `running` as they were; the rest as
60_exceptions.md R210 says. -/
def takeFault (e : EngineFault) (s : State) : State :=
  let t := if e.early then s else freeState s
  { t with faulted := true, halted := false, report := .raised e }

/-- The outcome of an instruction: the state it leaves, the Faulted state, or the refusal. -/
def finish (x : Run Unit) : Host.Outcome State Fault Refusal :=
  match x with
  | .done _ s => .next s
  | .raised e s => .next (takeFault e s)
  | .refused r => .refused r

/-- The stepper's default after a handler: pc goes to the next index (48_control_flow.md R181). -/
def advance (x : Run Unit) : Run Unit := x.bind fun _ s => .done () (setPc s (s.pc + 1))

end Sys2Proof.Machine
end

