-- ==== Sys2Proof/Machine/Flags.lean ====
section
/-! DEFINITION. The flag computation module and the conditions (40_flag_module.md). Every function takes the prior
flag bitset and gives the new one; a bit it does not name keeps its value (R95). -/

namespace Sys2Proof.Machine

/-- CF of a flag bitset: bit 0 (10_state.md R25). -/
def cf (f : Word) : Bool := f.getLsbD 0

/-- ZF: bit 6. -/
def zf (f : Word) : Bool := f.getLsbD 6

/-- SF: bit 7. -/
def sf (f : Word) : Bool := f.getLsbD 7

/-- OF: bit 11. -/
def of (f : Word) : Bool := f.getLsbD 11

/-- One bit of the bitset replaced. -/
def putFlag (f : Word) (i : Nat) (b : Bool) : Word :=
  if b then f ||| ((1 : Word) <<< i) else f &&& ~~~((1 : Word) <<< i)

/-- CF replaced. -/
def putCf (f : Word) (b : Bool) : Word := putFlag f 0 b

/-- ZF replaced. -/
def putZf (f : Word) (b : Bool) : Word := putFlag f 6 b

/-- SF replaced. -/
def putSf (f : Word) (b : Bool) : Word := putFlag f 7 b

/-- OF replaced. -/
def putOf (f : Word) (b : Bool) : Word := putFlag f 11 b

/-- CF, ZF, SF and OF replaced, in that order. -/
def putFlags (f : Word) (c z n o : Bool) : Word := putOf (putSf (putZf (putCf f c) z) n) o

/-- ZF and SF from a result (40_flag_module.md R95). -/
def putZfSf (f : Word) (r : Word) : Word := putSf (putZf f (r == 0)) r.msb

-- ## Logical and arithmetic

/-- 40_flag_module.md R96. -/
def flagsLogic (f r : Word) : Word := putFlags f false (r == 0) r.msb false

/-- 40_flag_module.md R97. -/
def flagsAdd (f d v r : Word) : Word := putFlags f (r.ult d) (r == 0) r.msb (d.msb == v.msb && r.msb != d.msb)

/-- 40_flag_module.md R98. -/
def flagsSub (f d v r : Word) : Word := putFlags f (d.ult v) (r == 0) r.msb (d.msb != v.msb && r.msb != d.msb)

/-- 40_flag_module.md R99. -/
def flagsInc (f d r : Word) : Word := putCf (flagsAdd f d 1 r) (cf f)

/-- 40_flag_module.md R100. -/
def flagsDec (f d r : Word) : Word := putCf (flagsSub f d 1 r) (cf f)

/-- 40_flag_module.md R101. -/
def flagsNeg (f d r : Word) : Word := putCf (flagsSub f 0 d r) (d != 0)

-- ## Shift and rotate

/-- 40_flag_module.md R103; `raw` is `SHL_CF_RAW_COUNT`, `n` the raw count, `c` the masked one. DEDUCED: the OF of a
single-bit shift is computed from the CF that `raw` selects, as R103's formula and the vectors H3 and S4b of
95_test_vectors.md have it, although 90_conflicts.md C2 says that OF does not depend on that parameter; the two differ
for `n ≥ 33` with `c = 1` and `d[0] ≠ d[31]`. Log entry 26. -/
def flagsShl (raw : Bool) (f d : Word) (n c : Nat) (r : Word) : Word :=
  let carry := if raw then d.getLsbD (32 - min n 32) else d.getLsbD (32 - c)
  putFlags f carry (r == 0) r.msb (c == 1 && (r.msb != carry))

/-- 40_flag_module.md R104. -/
def flagsShr (f d : Word) (c : Nat) (r : Word) : Word :=
  putFlags f (d.getLsbD (c - 1)) (r == 0) r.msb (c == 1 && d.msb)

/-- 40_flag_module.md R105. -/
def flagsSar (f d : Word) (c : Nat) (r : Word) : Word := putFlags f (d.getLsbD (c - 1)) (r == 0) r.msb false

/-- ZF and SF after a rotate, by mode (40_flag_module.md R108). -/
def rotateZfSf (m : Mode) (f r : Word) : Word :=
  match m with
  | .teaching => putZfSf f r
  | .strict => f

/-- 40_flag_module.md R106. -/
def flagsRotL (m : Mode) (f r : Word) (carry : Bool) (c : Nat) : Word :=
  rotateZfSf m (putOf (putCf f carry) (c == 1 && (r.msb != carry))) r

/-- 40_flag_module.md R107. -/
def flagsRotR (m : Mode) (f r : Word) (carry : Bool) (c : Nat) : Word :=
  rotateZfSf m (putOf (putCf f carry) (c == 1 && (r.msb != r.getLsbD 30))) r

-- ## Multiply and divide

/-- 40_flag_module.md R109. -/
def flagsMul (m : Mode) (f lo hi : Word) : Word :=
  match m with
  | .teaching => putFlags f (hi != 0) (lo == 0) lo.msb (hi != 0)
  | .strict => putFlags f (hi != 0) false false (hi != 0)

/-- 40_flag_module.md R110. -/
def flagsDiv (m : Mode) (f q : Word) : Word :=
  match m with
  | .teaching => putZfSf f q
  | .strict => putOf (putCf f false) false

-- ## Byte-width operations

/-- The rows of the table of 40_flag_module.md R111. `sub` is SUB, CMP, SCAS and CMPS; `logic` is AND, OR, XOR and
TEST. -/
inductive ByteOp where
  | add
  | sub
  | inc
  | dec
  | neg
  | logic
  deriving DecidableEq, Repr

/-- 40_flag_module.md R111, with the free bits `xc xz xs xo` where the table says draw. -/
def flagsByte (op : ByteOp) (f : Word) (a b r : Byte) (xc xz xs xo : Bool) : Word :=
  match op with
  | .add => putFlags f xc xz xs xo
  | .sub => putFlags f (a.ult b) (a == b) xs xo
  | .inc => putFlags f (cf f) xz xs xo
  | .dec => putFlags f (cf f) (a == 1) xs xo
  | .neg => putFlags f (a != 0) (a == 0) xs xo
  | .logic => putFlags f false (r == 0) xs false

/-- The flags of a byte-width operation: four fresh draws, one for each flag (60_exceptions.md R213). Log entry 8. -/
def setByteFlags (s : State) (op : ByteOp) (a b r : Byte) : State :=
  addDraws
    (setFlags s
      (flagsByte op s.flags a b r (Config.drawBit s.draws) (Config.drawBit (s.draws + 1))
        (Config.drawBit (s.draws + 2)) (Config.drawBit (s.draws + 3))))
    4

-- ## Conditions

/-- The conditions of Jcc and CMOVcc (40_flag_module.md R112). -/
inductive Cond where
  | o | no | b | ae | e | z | ne | nz | be | a | s | ns | l | ge | le | g
  deriving DecidableEq, Repr

/-- `Cond(cc, F)` of 40_flag_module.md R112. -/
def holds (c : Cond) (f : Word) : Bool :=
  match c with
  | .o => of f
  | .no => !of f
  | .b => cf f
  | .ae => !cf f
  | .e => zf f
  | .z => zf f
  | .ne => !zf f
  | .nz => !zf f
  | .be => cf f || zf f
  | .a => !cf f && !zf f
  | .s => sf f
  | .ns => !sf f
  | .l => sf f != of f
  | .ge => sf f == of f
  | .le => zf f || (sf f != of f)
  | .g => !zf f && (sf f == of f)

end Sys2Proof.Machine
end

