-- ==== Sys2Proof/Machine/Operands.lean ====
section
/-! DEFINITION. The operand forms: reading and writing a resolved operand, operand counts, failed tokens, and the
admitted forms with the refusal each other form meets (30_encoding.md R76 to R89). -/

namespace Sys2Proof.Machine

-- ## Val and Store (30_encoding.md R76, R82, R83)

/-- `EA(op)` of a memory operand (30_encoding.md R76). -/
def ea (s : State) : MemShape → Word
  | .reg r => getReg s r
  | .regPlus r n => getReg s r + n
  | .regMinus r n => getReg s r - n
  | .regReg r r2 => getReg s r + getReg s r2
  | .abs n => n

/-- `Val(op)` is not refused. -/
def readOk (s : State) : Operand → Bool
  | .mem m => memReadOk s (ea s m) 4
  | .reg32 _ => true
  | .reg8 _ => true
  | .imm _ => true
  | .malformed _ => true
  | .unshown _ => true

/-- The value of `Val(op)` (30_encoding.md R82). A failed operand has none; no meaning reads one. -/
def peek (s : State) : Operand → Word
  | .reg32 r => getReg s r
  | .reg8 r => (getReg8 s r).setWidth 32
  | .imm v => v
  | .mem m => memPeek s (ea s m) 4
  | .malformed _ => 0
  | .unshown _ => 0

/-- The state after `Val(op)`: a read of the keycode register pops an event (20_memory.md R57). -/
def touch (s : State) : Operand → State
  | .mem m => memTouch s (ea s m)
  | .reg32 _ => s
  | .reg8 _ => s
  | .imm _ => s
  | .malformed _ => s
  | .unshown _ => s

/-- `Val(op)` (30_encoding.md R82). -/
def readOp (s : State) (op : Operand) : Run Word :=
  match op with
  | .mem m => memRead s (ea s m) 4
  | .reg32 _ => .done (peek s op) s
  | .reg8 _ => .done (peek s op) s
  | .imm _ => .done (peek s op) s
  | .malformed _ => .done (peek s op) s
  | .unshown _ => .done (peek s op) s

/-- `Store(op, v)` completes. -/
def writeOk (s : State) : Operand → Bool
  | .mem m => memWriteOk s (ea s m) 4
  | .reg32 _ => true
  | .reg8 _ => true
  | .imm _ => true
  | .malformed _ => true
  | .unshown _ => true

/-- The state after a `Store(op, v)` that completes (30_encoding.md R83). No meaning stores to an immediate (R87) or
to a failed operand. -/
def poke (s : State) (op : Operand) (v : Word) : State :=
  match op with
  | .reg32 r => setReg s r v
  | .reg8 r => setReg8 s r (v.setWidth 8)
  | .mem m => memPoke s (ea s m) 4 v
  | .imm _ => s
  | .malformed _ => s
  | .unshown _ => s

/-- `Store(op, v)` (30_encoding.md R83). -/
def writeOp (s : State) (op : Operand) (v : Word) : Run Unit :=
  match op with
  | .mem m => memWrite s (ea s m) 4 v
  | .reg32 _ => .done () (poke s op v)
  | .reg8 _ => .done () (poke s op v)
  | .imm _ => .done () (poke s op v)
  | .malformed _ => .done () (poke s op v)
  | .unshown _ => .done () (poke s op v)

-- ## Counts and failed tokens (30_encoding.md R77, R88, R89; 60_exceptions.md R219)

/-- The wrong operand counts that the spec refuses (30_encoding.md R89). -/
def countRefused (m : Mnemonic) (n : Nat) : Bool :=
  match m with
  | .imul => n == 2 || n == 3
  | .shl | .shr | .sar | .rol | .ror | .rcl | .rcr => n == 1
  | .ret => true
  | .jmp | .je | .jne | .jg | .jge | .jl | .jle | .js | .jns | .ja | .jae | .jb | .jbe | .call => true
  | .loop | .loope | .loopne | .loopz | .loopnz => true
  | _ => false

/-- A record with the wrong number of operands: refused (30_encoding.md R89), or a noop or an error by the policy
(30_encoding.md R88). No operand is resolved. -/
def wrongCount (m : Mnemonic) (n : Nat) (s : State) : Run Unit :=
  if countRefused m n then .refused .formNotAdmitted
  else
    match s.cfg.countPolicy with
    | .noop => .done () s
    | .fault => .raised (.badOperandCount m) s

/-- The first token that failed, from left to right, ends the instruction (30_encoding.md R77); with none, it goes
on. -/
def resolved (ops : List Operand) (s : State) (go : Run Unit) : Run Unit :=
  match ops with
  | [] => go
  | .malformed tok :: _ => .raised (.parseError tok) s
  | .unshown _ :: _ => .refused .literalFormNotShown
  | .reg32 _ :: rest => resolved rest s go
  | .reg8 _ :: rest => resolved rest s go
  | .imm _ :: rest => resolved rest s go
  | .mem _ :: rest => resolved rest s go

/-- An instruction of no operand (30_encoding.md R94 steps 3 and 4). -/
def operands0 (m : Mnemonic) (ops : List Operand) (s : State) (go : Run Unit) : Run Unit :=
  match ops with
  | [] => go
  | _ => wrongCount m ops.length s

/-- An instruction of one operand (30_encoding.md R94 steps 3 and 4). -/
def operands1 (m : Mnemonic) (ops : List Operand) (s : State) (go : Operand → Run Unit) : Run Unit :=
  match ops with
  | [a] => resolved [a] s (go a)
  | _ => wrongCount m ops.length s

/-- An instruction of two operands (30_encoding.md R94 steps 3 and 4). -/
def operands2 (m : Mnemonic) (ops : List Operand) (s : State) (go : Operand → Operand → Run Unit) : Run Unit :=
  match ops with
  | [a, b] => resolved [a, b] s (go a b)
  | _ => wrongCount m ops.length s

-- ## Forms (30_encoding.md R81, R84 to R87)

/-- What the form check gives: W = 32, W = 8 (30_encoding.md R84), nothing to do, or a refusal. -/
inductive Form where
  | wide
  | narrow
  | noop
  | reject (r : Refusal)
  deriving DecidableEq, Repr

/-- The form that is refused because of an 8-bit operand (30_encoding.md R85). -/
def Form.byteOnly : Form := .reject .byteFormNotShown

/-- The form that is refused for any other reason (30_encoding.md R81, R86, R87). -/
def Form.never : Form := .reject .formNotAdmitted

/-- MOV (30_encoding.md R81, R85 (a)); its two-memory form is `wide` here and meets the mode policy next (R86). The
8-bit limits are checked before the others: log entry 15. -/
def formMov (dst src : Operand) : Form :=
  match dst, src with
  | .reg32 _, .reg32 _ => .wide
  | .reg32 _, .reg8 _ => .wide
  | .reg32 _, .imm _ => .wide
  | .reg32 _, .mem _ => .wide
  | .reg8 _, .reg32 _ => .wide
  | .reg8 _, .reg8 _ => .wide
  | .reg8 _, .imm v => if v ≤ 255 then .wide else .byteOnly
  | .reg8 _, .mem _ => .byteOnly
  | .mem _, .reg32 _ => .wide
  | .mem _, .reg8 _ => .byteOnly
  | .mem _, .imm _ => .wide
  | .mem _, .mem _ => .wide
  | .imm v, .reg8 _ => if v ≤ 255 then .never else .byteOnly
  | _, _ => .never

/-- ADD, SUB, CMP, AND, OR, XOR, TEST (30_encoding.md R81, R85 (b), R86, R87). Log entry 15. -/
def formBinary (dst src : Operand) : Form :=
  match dst, src with
  | .reg32 _, .reg32 _ => .wide
  | .reg32 _, .imm _ => .wide
  | .reg32 _, .mem _ => .wide
  | .reg32 _, .reg8 _ => .byteOnly
  | .reg8 _, .reg8 _ => .narrow
  | .reg8 _, .imm v => if v ≤ 255 then .narrow else .byteOnly
  | .reg8 _, .reg32 _ => .byteOnly
  | .reg8 _, .mem _ => .byteOnly
  | .mem _, .reg32 _ => .wide
  | .mem _, .imm _ => .wide
  | .mem _, .reg8 _ => .byteOnly
  | .mem _, .mem _ => .never
  | .imm v, .reg8 _ => if v ≤ 255 then .never else .byteOnly
  | _, _ => .never

/-- INC, DEC, NEG (30_encoding.md R81, R85 (c), R87). -/
def formUnary (dst : Operand) : Form :=
  match dst with
  | .reg32 _ => .wide
  | .reg8 _ => .narrow
  | .mem _ => .wide
  | _ => .never

/-- XADD: a first operand that is no register makes it a noop, whatever the second is (42_arithmetic.md R143). -/
def formXadd (dst src : Operand) : Form :=
  match dst, src with
  | .imm _, _ => .noop
  | .mem _, _ => .noop
  | .reg8 _, _ => .byteOnly
  | _, .reg8 _ => .byteOnly
  | .reg32 _, .reg32 _ => .wide
  | _, _ => .never

/-- CMOVcc. An 8-bit register in either place (30_encoding.md R85), an immediate source, a memory source in a device's
range (30_encoding.md R81) and two memory operands (30_encoding.md R86) are refused, as 41_data_movement.md R115 lists
them, whatever the destination is and whether or not the condition holds; any other first operand that is no register
makes it a noop (30_encoding.md R87). DEDUCED: the refusals come before the noop. Log entry 16. -/
def formCmov (s : State) (dst src : Operand) : Form :=
  match dst, src with
  | .reg8 _, _ => .byteOnly
  | _, .reg8 _ => .byteOnly
  | .reg32 _, .reg32 _ => .wide
  | .imm _, .reg32 _ => .noop
  | .mem _, .reg32 _ => .noop
  | .reg32 _, .mem m => if isMmio s.cfg (ea s m).toNat then .never else .wide
  | .imm _, .mem m => if isMmio s.cfg (ea s m).toNat then .never else .noop
  | _, _ => .never

/-- BSF, BSR (30_encoding.md R81). -/
def formScan (dst src : Operand) : Form :=
  match dst, src with
  | .reg8 _, _ => .byteOnly
  | _, .reg8 _ => .byteOnly
  | .reg32 _, .reg32 _ => .wide
  | .reg32 _, .mem _ => .wide
  | _, _ => .never

/-- BSWAP (41_data_movement.md R136). -/
def formBswap (dst : Operand) : Form :=
  match dst with
  | .reg32 _ => .wide
  | .reg8 _ => .byteOnly
  | _ => .never

/-- PUSH (30_encoding.md R81). -/
def formPush (src : Operand) : Form :=
  match src with
  | .reg32 _ => .wide
  | .imm _ => .wide
  | .mem _ => .wide
  | .reg8 _ => .byteOnly
  | _ => .never

/-- POP, MUL, IMUL, DIV, IDIV (30_encoding.md R81, R87). -/
def formRegMem (op : Operand) : Form :=
  match op with
  | .reg32 _ => .wide
  | .mem _ => .wide
  | .reg8 _ => .byteOnly
  | _ => .never

/-- The shifts and rotates: the width is 32 whatever the count operand is (44_shift_rotate.md R150). Log entry 17. -/
def formShift (dst count : Operand) : Form :=
  match dst, count with
  | .reg8 _, _ => .byteOnly
  | .reg32 _, .imm _ => .wide
  | .reg32 _, .reg32 _ => .wide
  | .reg32 _, .reg8 _ => .wide
  | .mem _, .imm _ => .wide
  | .mem _, .reg32 _ => .wide
  | .mem _, .reg8 _ => .wide
  | _, _ => .never

/-- INT (47_interrupt_system.md R170): any register, an 8-bit one included, or memory operand is FormNotAdmitted, INT's
own rule before the general one of 30_encoding.md R85. Log entry 15. -/
def formInt (op : Operand) : Form :=
  match op with
  | .imm _ => .wide
  | _ => .never

/-- Go on with an admitted form: `wide` for W = 32, `narrow` for W = 8. -/
def Form.check (f : Form) (s : State) (wide narrow : Run Unit) : Run Unit :=
  match f with
  | .wide => wide
  | .narrow => narrow
  | .noop => .done () s
  | .reject r => .refused r

end Sys2Proof.Machine
end

