-- ==== Sys2Proof/Machine/Alu.lean ====
section
/-! DEFINITION. The shared frames of the two-operand and one-operand arithmetic and logical instructions. -/

namespace Sys2Proof.Machine

/-- The frame of ADD, SUB, AND, OR and XOR: source read, destination read, result written, flags written
(30_encoding.md R94, 42_arithmetic.md R137). `f` is the result of destination and source; `fl` the 32-bit flag
function of prior flags, destination, source and result; `op` the row of the byte flag table. -/
def binaryOp (m : Mnemonic) (f : Word → Word → Word) (fl : Word → Word → Word → Word → Word) (op : ByteOp)
    (ops : List Operand) (s : State) : Run Unit :=
  operands2 m ops s fun dst src =>
    (formBinary dst src).check s
      ((readOp s src).bind fun v s1 => (readOp s1 dst).bind fun d s2 => (writeOp s2 dst (f d v)).bind fun _ s3 =>
        .done () (setFlags s3 (fl s3.flags d v (f d v))))
      ((readOp s src).bind fun v s1 => (readOp s1 dst).bind fun d s2 => (writeOp s2 dst (f d v)).bind fun _ s3 =>
        .done () (setByteFlags s3 op (d.setWidth 8) (v.setWidth 8) ((f d v).setWidth 8)))

/-- The frame of CMP and TEST: as `binaryOp`, with no destination written (42_arithmetic.md R139,
43_logical_bitscan.md R147). -/
def compareOp (m : Mnemonic) (f : Word → Word → Word) (fl : Word → Word → Word → Word → Word) (op : ByteOp)
    (ops : List Operand) (s : State) : Run Unit :=
  operands2 m ops s fun dst src =>
    (formBinary dst src).check s
      ((readOp s src).bind fun v s1 => (readOp s1 dst).bind fun d s2 =>
        .done () (setFlags s2 (fl s2.flags d v (f d v))))
      ((readOp s src).bind fun v s1 => (readOp s1 dst).bind fun d s2 =>
        .done () (setByteFlags s2 op (d.setWidth 8) (v.setWidth 8) ((f d v).setWidth 8)))

/-- The frame of INC, DEC and NEG (42_arithmetic.md R140 to R142). `b` is the source byte that the byte flag table
is given. -/
def unaryOp (m : Mnemonic) (f : Word → Word) (fl : Word → Word → Word → Word) (op : ByteOp) (b : Byte)
    (ops : List Operand) (s : State) : Run Unit :=
  operands1 m ops s fun dst =>
    (formUnary dst).check s
      ((readOp s dst).bind fun d s1 => (writeOp s1 dst (f d)).bind fun _ s2 =>
        .done () (setFlags s2 (fl s2.flags d (f d))))
      ((readOp s dst).bind fun d s1 => (writeOp s1 dst (f d)).bind fun _ s2 =>
        .done () (setByteFlags s2 op (d.setWidth 8) b ((f d).setWidth 8)))

end Sys2Proof.Machine
end

