-- ==== Sys2Proof/Machine/Arithmetic.lean ====
section
/-! DEFINITION. The arithmetic instructions (42_arithmetic.md). -/

namespace Sys2Proof.Machine

/-- The handler of ADD (42_arithmetic.md R137). -/
def handleAdd (ops : List Operand) (s : State) : Run Unit :=
  binaryOp .add (fun d v => d + v) flagsAdd .add ops s

/-- ADD: its handler, then the next index (42_arithmetic.md R137). -/
def execAdd (ops : List Operand) (s : State) : Host.Outcome State Fault Refusal :=
  finish (advance (handleAdd ops s))

/-- The handler of SUB (42_arithmetic.md R138). -/
def handleSub (ops : List Operand) (s : State) : Run Unit :=
  binaryOp .sub (fun d v => d - v) flagsSub .sub ops s

/-- SUB: its handler, then the next index (42_arithmetic.md R138). -/
def execSub (ops : List Operand) (s : State) : Host.Outcome State Fault Refusal :=
  finish (advance (handleSub ops s))

/-- The handler of CMP (42_arithmetic.md R139). -/
def handleCmp (ops : List Operand) (s : State) : Run Unit :=
  compareOp .cmp (fun d v => d - v) flagsSub .sub ops s

/-- CMP: its handler, then the next index (42_arithmetic.md R139). -/
def execCmp (ops : List Operand) (s : State) : Host.Outcome State Fault Refusal :=
  finish (advance (handleCmp ops s))

/-- The handler of INC (42_arithmetic.md R140). -/
def handleInc (ops : List Operand) (s : State) : Run Unit :=
  unaryOp .inc (fun d => d + 1) flagsInc .inc 1 ops s

/-- INC: its handler, then the next index (42_arithmetic.md R140). -/
def execInc (ops : List Operand) (s : State) : Host.Outcome State Fault Refusal :=
  finish (advance (handleInc ops s))

/-- The handler of DEC (42_arithmetic.md R141). -/
def handleDec (ops : List Operand) (s : State) : Run Unit :=
  unaryOp .dec (fun d => d - 1) flagsDec .dec 1 ops s

/-- DEC: its handler, then the next index (42_arithmetic.md R141). -/
def execDec (ops : List Operand) (s : State) : Host.Outcome State Fault Refusal :=
  finish (advance (handleDec ops s))

/-- The handler of NEG (42_arithmetic.md R142). -/
def handleNeg (ops : List Operand) (s : State) : Run Unit :=
  unaryOp .neg (fun d => 0 - d) flagsNeg .neg 0 ops s

/-- NEG: its handler, then the next index (42_arithmetic.md R142). -/
def execNeg (ops : List Operand) (s : State) : Host.Outcome State Fault Refusal :=
  finish (advance (handleNeg ops s))

/-- The state after XADD of two registers: the source takes the old destination, then the destination takes the sum
(42_arithmetic.md R143). -/
def xaddRegs (s : State) (dst src : Operand) : State :=
  let d := peek s dst
  let v := peek s src
  setFlags (poke (poke s src d) dst (d + v)) (flagsAdd s.flags d v (d + v))

/-- The handler of XADD (42_arithmetic.md R143). -/
def handleXadd (ops : List Operand) (s : State) : Run Unit :=
  operands2 .xadd ops s fun dst src =>
    (formXadd dst src).check s (.done () (xaddRegs s dst src)) (.done () (xaddRegs s dst src))

/-- XADD: its handler, then the next index (42_arithmetic.md R143). -/
def execXadd (ops : List Operand) (s : State) : Host.Outcome State Fault Refusal :=
  finish (advance (handleXadd ops s))

end Sys2Proof.Machine
end

