-- ==== Sys2Proof/Machine/ControlFlow.lean ====
section
/-! DEFINITION. The control-flow instructions and the stepper's part of each (48_control_flow.md). -/

namespace Sys2Proof.Machine

/-- The handler part of an instruction with one label: any other count is refused (30_encoding.md R89), and nothing
but `effect` is done (48_control_flow.md R200, R206). -/
def oneLabel (ops : List Text) (s : State) (effect : State → State) : Run Unit :=
  match ops with
  | [_] => .done () (effect s)
  | _ => .refused .formNotAdmitted

/-- The stepper's part: after the handler, the label is looked up, whatever the condition (48_control_flow.md R182,
R183), and then `go` gives the state from the target. -/
def branch (m : Mnemonic) (ops : List Text) (handler : Run Unit) (go : Nat → State → State) : Run Unit :=
  handler.bind fun _ s =>
    match ops with
    | [name] =>
      match s.labels.lookup name with
      | some t => .done () (go t s)
      | none => .raised (.controlFlowFault m name) s
    | _ => .refused .formNotAdmitted

/-- Redirect to the target if the condition holds, else fall through (48_control_flow.md R185). -/
def goIf (taken : Bool) (t : Nat) (s : State) : State := setPc s (if taken then t else s.pc + 1)

/-- The handler of JMP (48_control_flow.md R184, R206). -/
def handleJmp (ops : List Text) (s : State) : Run Unit := oneLabel ops s id

/-- JMP (48_control_flow.md R184). -/
def execJmp (ops : List Text) (s : State) : Host.Outcome State Fault Refusal :=
  finish (branch .jmp ops (handleJmp ops s) (goIf true))

/-- The handler of JE (48_control_flow.md R186, R206). -/
def handleJe (ops : List Text) (s : State) : Run Unit := oneLabel ops s id

/-- JE (48_control_flow.md R186). -/
def execJe (ops : List Text) (s : State) : Host.Outcome State Fault Refusal :=
  finish (branch .je ops (handleJe ops s) fun t s1 => goIf (holds .e s1.flags) t s1)

/-- The handler of JNE (48_control_flow.md R187, R206). -/
def handleJne (ops : List Text) (s : State) : Run Unit := oneLabel ops s id

/-- JNE (48_control_flow.md R187). -/
def execJne (ops : List Text) (s : State) : Host.Outcome State Fault Refusal :=
  finish (branch .jne ops (handleJne ops s) fun t s1 => goIf (holds .ne s1.flags) t s1)

/-- The handler of JG (48_control_flow.md R188, R206). -/
def handleJg (ops : List Text) (s : State) : Run Unit := oneLabel ops s id

/-- JG (48_control_flow.md R188). -/
def execJg (ops : List Text) (s : State) : Host.Outcome State Fault Refusal :=
  finish (branch .jg ops (handleJg ops s) fun t s1 => goIf (holds .g s1.flags) t s1)

/-- The handler of JGE (48_control_flow.md R189, R206). -/
def handleJge (ops : List Text) (s : State) : Run Unit := oneLabel ops s id

/-- JGE (48_control_flow.md R189). -/
def execJge (ops : List Text) (s : State) : Host.Outcome State Fault Refusal :=
  finish (branch .jge ops (handleJge ops s) fun t s1 => goIf (holds .ge s1.flags) t s1)

/-- The handler of JL (48_control_flow.md R190, R206). -/
def handleJl (ops : List Text) (s : State) : Run Unit := oneLabel ops s id

/-- JL (48_control_flow.md R190). -/
def execJl (ops : List Text) (s : State) : Host.Outcome State Fault Refusal :=
  finish (branch .jl ops (handleJl ops s) fun t s1 => goIf (holds .l s1.flags) t s1)

/-- The handler of JLE (48_control_flow.md R191, R206). -/
def handleJle (ops : List Text) (s : State) : Run Unit := oneLabel ops s id

/-- JLE (48_control_flow.md R191). -/
def execJle (ops : List Text) (s : State) : Host.Outcome State Fault Refusal :=
  finish (branch .jle ops (handleJle ops s) fun t s1 => goIf (holds .le s1.flags) t s1)

/-- The handler of JS (48_control_flow.md R192, R206). -/
def handleJs (ops : List Text) (s : State) : Run Unit := oneLabel ops s id

/-- JS (48_control_flow.md R192). -/
def execJs (ops : List Text) (s : State) : Host.Outcome State Fault Refusal :=
  finish (branch .js ops (handleJs ops s) fun t s1 => goIf (holds .s s1.flags) t s1)

/-- The handler of JNS (48_control_flow.md R193, R206). -/
def handleJns (ops : List Text) (s : State) : Run Unit := oneLabel ops s id

/-- JNS (48_control_flow.md R193). -/
def execJns (ops : List Text) (s : State) : Host.Outcome State Fault Refusal :=
  finish (branch .jns ops (handleJns ops s) fun t s1 => goIf (holds .ns s1.flags) t s1)

/-- The handler of JA (48_control_flow.md R194, R206). -/
def handleJa (ops : List Text) (s : State) : Run Unit := oneLabel ops s id

/-- JA (48_control_flow.md R194). -/
def execJa (ops : List Text) (s : State) : Host.Outcome State Fault Refusal :=
  finish (branch .ja ops (handleJa ops s) fun t s1 => goIf (holds .a s1.flags) t s1)

/-- The handler of JAE (48_control_flow.md R195, R206). -/
def handleJae (ops : List Text) (s : State) : Run Unit := oneLabel ops s id

/-- JAE (48_control_flow.md R195). -/
def execJae (ops : List Text) (s : State) : Host.Outcome State Fault Refusal :=
  finish (branch .jae ops (handleJae ops s) fun t s1 => goIf (holds .ae s1.flags) t s1)

/-- The handler of JB (48_control_flow.md R196, R206). -/
def handleJb (ops : List Text) (s : State) : Run Unit := oneLabel ops s id

/-- JB (48_control_flow.md R196). -/
def execJb (ops : List Text) (s : State) : Host.Outcome State Fault Refusal :=
  finish (branch .jb ops (handleJb ops s) fun t s1 => goIf (holds .b s1.flags) t s1)

/-- The handler of JBE (48_control_flow.md R197, R206). -/
def handleJbe (ops : List Text) (s : State) : Run Unit := oneLabel ops s id

/-- JBE (48_control_flow.md R197). -/
def execJbe (ops : List Text) (s : State) : Host.Outcome State Fault Refusal :=
  finish (branch .jbe ops (handleJbe ops s) fun t s1 => goIf (holds .be s1.flags) t s1)

/-- The handler of CALL (48_control_flow.md R198, R206). -/
def handleCall (ops : List Text) (s : State) : Run Unit := oneLabel ops s id

/-- CALL: the next index goes on the call stack, which is no part of memory (48_control_flow.md R198). -/
def execCall (ops : List Text) (s : State) : Host.Outcome State Fault Refusal :=
  finish (branch .call ops (handleCall ops s) fun t s1 => setPc (setCs s1 ((s1.pc + 1) :: s1.cs)) t)

/-- The handler of RET: operands are refused (30_encoding.md R89). -/
def handleRet (ops : List Text) (s : State) : Run Unit :=
  match ops with
  | [] => .done () s
  | _ => .refused .formNotAdmitted

/-- The stepper's part of RET: the saved index, or the next one on an empty call stack (48_control_flow.md R199). -/
def returnTo (s : State) : State :=
  match s.cs with
  | [] => setPc s (s.pc + 1)
  | t :: rest => setPc (setCs s rest) t

/-- RET (48_control_flow.md R199). -/
def execRet (ops : List Text) (s : State) : Host.Outcome State Fault Refusal :=
  finish ((handleRet ops s).bind fun _ s1 => .done () (returnTo s1))

/-- The loop counter decremented (48_control_flow.md R200). -/
def countDown (s : State) : State := setReg s .ecx (getReg s .ecx - 1)

/-- The handler of LOOP (48_control_flow.md R200). -/
def handleLoop (ops : List Text) (s : State) : Run Unit := oneLabel ops s countDown

/-- LOOP (48_control_flow.md R201). -/
def execLoop (ops : List Text) (s : State) : Host.Outcome State Fault Refusal :=
  finish (branch .loop ops (handleLoop ops s) fun t s1 => goIf (getReg s1 .ecx != 0) t s1)

/-- The handler of LOOPE (48_control_flow.md R200). -/
def handleLoope (ops : List Text) (s : State) : Run Unit := oneLabel ops s countDown

/-- LOOPE (48_control_flow.md R202). -/
def execLoope (ops : List Text) (s : State) : Host.Outcome State Fault Refusal :=
  finish (branch .loope ops (handleLoope ops s) fun t s1 => goIf (getReg s1 .ecx != 0 && zf s1.flags) t s1)

/-- The handler of LOOPNE (48_control_flow.md R200). -/
def handleLoopne (ops : List Text) (s : State) : Run Unit := oneLabel ops s countDown

/-- LOOPNE (48_control_flow.md R204). -/
def execLoopne (ops : List Text) (s : State) : Host.Outcome State Fault Refusal :=
  finish (branch .loopne ops (handleLoopne ops s) fun t s1 => goIf (getReg s1 .ecx != 0 && !zf s1.flags) t s1)

/-- The handler of LOOPZ (48_control_flow.md R200). -/
def handleLoopz (ops : List Text) (s : State) : Run Unit := oneLabel ops s countDown

/-- LOOPZ (48_control_flow.md R203). -/
def execLoopz (ops : List Text) (s : State) : Host.Outcome State Fault Refusal :=
  finish (branch .loopz ops (handleLoopz ops s) fun t s1 => goIf (getReg s1 .ecx != 0 && zf s1.flags) t s1)

/-- The handler of LOOPNZ (48_control_flow.md R200). -/
def handleLoopnz (ops : List Text) (s : State) : Run Unit := oneLabel ops s countDown

/-- LOOPNZ (48_control_flow.md R205). -/
def execLoopnz (ops : List Text) (s : State) : Host.Outcome State Fault Refusal :=
  finish (branch .loopnz ops (handleLoopnz ops s) fun t s1 => goIf (getReg s1 .ecx != 0 && !zf s1.flags) t s1)

end Sys2Proof.Machine
end

