-- ==== Sys2Proof/Machine/DataMovement.lean ====
section
/-! DEFINITION. The data movement instructions (41_data_movement.md). -/

namespace Sys2Proof.Machine

/-- Both operands are memory operands (30_encoding.md R86). -/
def bothMem : Operand → Operand → Bool
  | .mem _, .mem _ => true
  | _, _ => false

/-- The handler of MOV (41_data_movement.md R113, R114). -/
def handleMov (ops : List Operand) (s : State) : Run Unit :=
  operands2 .mov ops s fun dst src =>
    let move : Run Unit :=
      if bothMem dst src && s.mode == .strict then .raised .modePolicyError s
      else (readOp s src).bind fun v s1 => writeOp s1 dst v
    (formMov dst src).check s move move

/-- MOV: its handler, then the next index (41_data_movement.md R113, R114). -/
def execMov (ops : List Operand) (s : State) : Host.Outcome State Fault Refusal :=
  finish (advance (handleMov ops s))

/-- The handler that the sixteen CMOVcc share: the source is read only when the move happens
(41_data_movement.md R115). -/
def cmov (m : Mnemonic) (c : Cond) (ops : List Operand) (s : State) : Run Unit :=
  operands2 m ops s fun dst src =>
    let move : Run Unit :=
      if holds c s.flags then (readOp s src).bind fun v s1 => writeOp s1 dst v else .done () s
    (formCmov s dst src).check s move move

/-- The handler of CMOVO (41_data_movement.md R116). -/
def handleCmovo (ops : List Operand) (s : State) : Run Unit := cmov .cmovo .o ops s

/-- CMOVO: its handler, then the next index (41_data_movement.md R116). -/
def execCmovo (ops : List Operand) (s : State) : Host.Outcome State Fault Refusal :=
  finish (advance (handleCmovo ops s))

/-- The handler of CMOVNO (41_data_movement.md R117). -/
def handleCmovno (ops : List Operand) (s : State) : Run Unit := cmov .cmovno .no ops s

/-- CMOVNO: its handler, then the next index (41_data_movement.md R117). -/
def execCmovno (ops : List Operand) (s : State) : Host.Outcome State Fault Refusal :=
  finish (advance (handleCmovno ops s))

/-- The handler of CMOVB (41_data_movement.md R118). -/
def handleCmovb (ops : List Operand) (s : State) : Run Unit := cmov .cmovb .b ops s

/-- CMOVB: its handler, then the next index (41_data_movement.md R118). -/
def execCmovb (ops : List Operand) (s : State) : Host.Outcome State Fault Refusal :=
  finish (advance (handleCmovb ops s))

/-- The handler of CMOVAE (41_data_movement.md R119). -/
def handleCmovae (ops : List Operand) (s : State) : Run Unit := cmov .cmovae .ae ops s

/-- CMOVAE: its handler, then the next index (41_data_movement.md R119). -/
def execCmovae (ops : List Operand) (s : State) : Host.Outcome State Fault Refusal :=
  finish (advance (handleCmovae ops s))

/-- The handler of CMOVE (41_data_movement.md R120). -/
def handleCmove (ops : List Operand) (s : State) : Run Unit := cmov .cmove .e ops s

/-- CMOVE: its handler, then the next index (41_data_movement.md R120). -/
def execCmove (ops : List Operand) (s : State) : Host.Outcome State Fault Refusal :=
  finish (advance (handleCmove ops s))

/-- The handler of CMOVZ (41_data_movement.md R121). -/
def handleCmovz (ops : List Operand) (s : State) : Run Unit := cmov .cmovz .z ops s

/-- CMOVZ: its handler, then the next index (41_data_movement.md R121). -/
def execCmovz (ops : List Operand) (s : State) : Host.Outcome State Fault Refusal :=
  finish (advance (handleCmovz ops s))

/-- The handler of CMOVNE (41_data_movement.md R122). -/
def handleCmovne (ops : List Operand) (s : State) : Run Unit := cmov .cmovne .ne ops s

/-- CMOVNE: its handler, then the next index (41_data_movement.md R122). -/
def execCmovne (ops : List Operand) (s : State) : Host.Outcome State Fault Refusal :=
  finish (advance (handleCmovne ops s))

/-- The handler of CMOVNZ (41_data_movement.md R123). -/
def handleCmovnz (ops : List Operand) (s : State) : Run Unit := cmov .cmovnz .nz ops s

/-- CMOVNZ: its handler, then the next index (41_data_movement.md R123). -/
def execCmovnz (ops : List Operand) (s : State) : Host.Outcome State Fault Refusal :=
  finish (advance (handleCmovnz ops s))

/-- The handler of CMOVBE (41_data_movement.md R124). -/
def handleCmovbe (ops : List Operand) (s : State) : Run Unit := cmov .cmovbe .be ops s

/-- CMOVBE: its handler, then the next index (41_data_movement.md R124). -/
def execCmovbe (ops : List Operand) (s : State) : Host.Outcome State Fault Refusal :=
  finish (advance (handleCmovbe ops s))

/-- The handler of CMOVA (41_data_movement.md R125). -/
def handleCmova (ops : List Operand) (s : State) : Run Unit := cmov .cmova .a ops s

/-- CMOVA: its handler, then the next index (41_data_movement.md R125). -/
def execCmova (ops : List Operand) (s : State) : Host.Outcome State Fault Refusal :=
  finish (advance (handleCmova ops s))

/-- The handler of CMOVS (41_data_movement.md R126). -/
def handleCmovs (ops : List Operand) (s : State) : Run Unit := cmov .cmovs .s ops s

/-- CMOVS: its handler, then the next index (41_data_movement.md R126). -/
def execCmovs (ops : List Operand) (s : State) : Host.Outcome State Fault Refusal :=
  finish (advance (handleCmovs ops s))

/-- The handler of CMOVNS (41_data_movement.md R127). -/
def handleCmovns (ops : List Operand) (s : State) : Run Unit := cmov .cmovns .ns ops s

/-- CMOVNS: its handler, then the next index (41_data_movement.md R127). -/
def execCmovns (ops : List Operand) (s : State) : Host.Outcome State Fault Refusal :=
  finish (advance (handleCmovns ops s))

/-- The handler of CMOVL (41_data_movement.md R128). -/
def handleCmovl (ops : List Operand) (s : State) : Run Unit := cmov .cmovl .l ops s

/-- CMOVL: its handler, then the next index (41_data_movement.md R128). -/
def execCmovl (ops : List Operand) (s : State) : Host.Outcome State Fault Refusal :=
  finish (advance (handleCmovl ops s))

/-- The handler of CMOVGE (41_data_movement.md R129). -/
def handleCmovge (ops : List Operand) (s : State) : Run Unit := cmov .cmovge .ge ops s

/-- CMOVGE: its handler, then the next index (41_data_movement.md R129). -/
def execCmovge (ops : List Operand) (s : State) : Host.Outcome State Fault Refusal :=
  finish (advance (handleCmovge ops s))

/-- The handler of CMOVLE (41_data_movement.md R130). -/
def handleCmovle (ops : List Operand) (s : State) : Run Unit := cmov .cmovle .le ops s

/-- CMOVLE: its handler, then the next index (41_data_movement.md R130). -/
def execCmovle (ops : List Operand) (s : State) : Host.Outcome State Fault Refusal :=
  finish (advance (handleCmovle ops s))

/-- The handler of CMOVG (41_data_movement.md R131). -/
def handleCmovg (ops : List Operand) (s : State) : Run Unit := cmov .cmovg .g ops s

/-- CMOVG: its handler, then the next index (41_data_movement.md R131). -/
def execCmovg (ops : List Operand) (s : State) : Host.Outcome State Fault Refusal :=
  finish (advance (handleCmovg ops s))

/-- The handler of PUSH: the source is read before ESP is decremented (41_data_movement.md R132). -/
def handlePush (ops : List Operand) (s : State) : Run Unit :=
  operands1 .push ops s fun src =>
    let body : Run Unit :=
      (readOp s src).bind fun v s1 =>
        memWrite (setReg s1 .esp (getReg s1 .esp - 4)) (getReg s1 .esp - 4) 4 v
    (formPush src).check s body body

/-- PUSH: its handler, then the next index (41_data_movement.md R132). -/
def execPush (ops : List Operand) (s : State) : Host.Outcome State Fault Refusal :=
  finish (advance (handlePush ops s))

/-- The handler of POP: ESP is incremented before the destination is written (41_data_movement.md R133). -/
def handlePop (ops : List Operand) (s : State) : Run Unit :=
  operands1 .pop ops s fun dst =>
    let body : Run Unit :=
      (memRead s (getReg s .esp) 4).bind fun v s1 =>
        writeOp (setReg s1 .esp (getReg s1 .esp + 4)) dst v
    (formRegMem dst).check s body body

/-- POP: its handler, then the next index (41_data_movement.md R133). -/
def execPop (ops : List Operand) (s : State) : Host.Outcome State Fault Refusal :=
  finish (advance (handlePop ops s))

/-- The byte LAHF writes to AH: SF, ZF and CF at bits 7, 6 and 0, and bit 1 set (41_data_movement.md R134). -/
def lahfByte (f : Word) : Byte :=
  (if sf f then 0x80 else 0) ||| (if zf f then 0x40 else 0) ||| 0x02 ||| (if cf f then 0x01 else 0)

/-- The handler of LAHF (41_data_movement.md R134). -/
def handleLahf (ops : List Operand) (s : State) : Run Unit :=
  operands0 .lahf ops s (.done () (setReg8 s .ah (lahfByte s.flags)))

/-- LAHF: its handler, then the next index (41_data_movement.md R134). -/
def execLahf (ops : List Operand) (s : State) : Host.Outcome State Fault Refusal :=
  finish (advance (handleLahf ops s))

/-- The flags SAHF leaves: CF, ZF and SF from bits 0, 6 and 7 of AH (41_data_movement.md R135). -/
def sahfFlags (f : Word) (ah : Byte) : Word :=
  putSf (putZf (putCf f (ah.getLsbD 0)) (ah.getLsbD 6)) (ah.getLsbD 7)

/-- The handler of SAHF (41_data_movement.md R135). -/
def handleSahf (ops : List Operand) (s : State) : Run Unit :=
  operands0 .sahf ops s (.done () (setFlags s (sahfFlags s.flags (getReg8 s .ah))))

/-- SAHF: its handler, then the next index (41_data_movement.md R135). -/
def execSahf (ops : List Operand) (s : State) : Host.Outcome State Fault Refusal :=
  finish (advance (handleSahf ops s))

/-- The four bytes of a word in the opposite order (41_data_movement.md R136). -/
def byteSwap (v : Word) : Word :=
  v.extractLsb' 0 8 ++ v.extractLsb' 8 8 ++ v.extractLsb' 16 8 ++ v.extractLsb' 24 8

/-- The handler of BSWAP (41_data_movement.md R136). -/
def handleBswap (ops : List Operand) (s : State) : Run Unit :=
  operands1 .bswap ops s fun dst =>
    let body : Run Unit := (readOp s dst).bind fun v s1 => writeOp s1 dst (byteSwap v)
    (formBswap dst).check s body body

/-- BSWAP: its handler, then the next index (41_data_movement.md R136). -/
def execBswap (ops : List Operand) (s : State) : Host.Outcome State Fault Refusal :=
  finish (advance (handleBswap ops s))

end Sys2Proof.Machine
end

