-- ==== Sys2Proof/Machine/Logical.lean ====
section
/-! DEFINITION. The logical and bit-scan instructions (43_logical_bitscan.md). -/

namespace Sys2Proof.Machine

/-- The handler of AND (43_logical_bitscan.md R144). -/
def handleAnd (ops : List Operand) (s : State) : Run Unit :=
  binaryOp .and (fun d v => d &&& v) (fun f _ _ r => flagsLogic f r) .logic ops s

/-- AND: its handler, then the next index (43_logical_bitscan.md R144). -/
def execAnd (ops : List Operand) (s : State) : Host.Outcome State Fault Refusal :=
  finish (advance (handleAnd ops s))

/-- The handler of OR (43_logical_bitscan.md R145). -/
def handleOr (ops : List Operand) (s : State) : Run Unit :=
  binaryOp .or (fun d v => d ||| v) (fun f _ _ r => flagsLogic f r) .logic ops s

/-- OR: its handler, then the next index (43_logical_bitscan.md R145). -/
def execOr (ops : List Operand) (s : State) : Host.Outcome State Fault Refusal :=
  finish (advance (handleOr ops s))

/-- The handler of XOR (43_logical_bitscan.md R146). -/
def handleXor (ops : List Operand) (s : State) : Run Unit :=
  binaryOp .xor (fun d v => d ^^^ v) (fun f _ _ r => flagsLogic f r) .logic ops s

/-- XOR: its handler, then the next index (43_logical_bitscan.md R146). -/
def execXor (ops : List Operand) (s : State) : Host.Outcome State Fault Refusal :=
  finish (advance (handleXor ops s))

/-- The handler of TEST (43_logical_bitscan.md R147). -/
def handleTest (ops : List Operand) (s : State) : Run Unit :=
  compareOp .test (fun d v => d &&& v) (fun f _ _ r => flagsLogic f r) .logic ops s

/-- TEST: its handler, then the next index (43_logical_bitscan.md R147). -/
def execTest (ops : List Operand) (s : State) : Host.Outcome State Fault Refusal :=
  finish (advance (handleTest ops s))

/-- The index of the least significant set bit; 0 where there is none (43_logical_bitscan.md R148). -/
def leastBit (w : Word) : Nat := ((List.range 32).find? (fun i => w.getLsbD i)).getD 0

/-- The index of the most significant set bit; 0 where there is none (43_logical_bitscan.md R149). -/
def greatestBit (w : Word) : Nat := ((List.range 32).reverse.find? (fun i => w.getLsbD i)).getD 0

/-- The frame of BSF and BSR: a zero source sets ZF alone; another writes the index and clears ZF
(43_logical_bitscan.md R148, R149). -/
def scanOp (m : Mnemonic) (index : Word → Nat) (ops : List Operand) (s : State) : Run Unit :=
  operands2 m ops s fun dst src =>
    let body : Run Unit :=
      (readOp s src).bind fun v s1 =>
        if v = 0 then .done () (setFlags s1 (putZf s1.flags true))
        else .done () (setFlags (poke s1 dst (BitVec.ofNat 32 (index v))) (putZf s1.flags false))
    (formScan dst src).check s body body

/-- The handler of BSF (43_logical_bitscan.md R148). -/
def handleBsf (ops : List Operand) (s : State) : Run Unit := scanOp .bsf leastBit ops s

/-- BSF: its handler, then the next index (43_logical_bitscan.md R148). -/
def execBsf (ops : List Operand) (s : State) : Host.Outcome State Fault Refusal :=
  finish (advance (handleBsf ops s))

/-- The handler of BSR (43_logical_bitscan.md R149). -/
def handleBsr (ops : List Operand) (s : State) : Run Unit := scanOp .bsr greatestBit ops s

/-- BSR: its handler, then the next index (43_logical_bitscan.md R149). -/
def execBsr (ops : List Operand) (s : State) : Host.Outcome State Fault Refusal :=
  finish (advance (handleBsr ops s))

end Sys2Proof.Machine
end

