-- ==== Sys2Proof/Machine/MultiplyDivide.lean ====
section
/-! DEFINITION. The multiply and divide instructions (45_multiply_divide.md). -/

namespace Sys2Proof.Machine

/-- The frame of MUL, IMUL, DIV and IDIV: the one operand is read, then the rest is done
(45_multiply_divide.md R158). -/
def accumulatorOp (m : Mnemonic) (ops : List Operand) (s : State) (go : Word → State → Run Unit) : Run Unit :=
  operands1 m ops s fun src => (formRegMem src).check s ((readOp s src).bind go) ((readOp s src).bind go)

/-- EDX:EAX and the flags after a product (45_multiply_divide.md R159, R160). -/
def setProduct (s : State) (lo hi : Word) : State :=
  setFlags (setReg (setReg s .eax lo) .edx hi) (flagsMul s.mode s.flags lo hi)

/-- The low word of the unsigned product (45_multiply_divide.md R159). -/
def mulLo (a v : Word) : Word := BitVec.ofNat 32 (a.toNat * v.toNat)

/-- The high word of the unsigned product (45_multiply_divide.md R159). -/
def mulHi (a v : Word) : Word := BitVec.ofNat 32 (a.toNat * v.toNat / 2 ^ 32)

/-- The handler of MUL (45_multiply_divide.md R159). -/
def handleMul (ops : List Operand) (s : State) : Run Unit :=
  accumulatorOp .mul ops s fun v s1 =>
    .done () (setProduct s1 (mulLo (getReg s1 .eax) v) (mulHi (getReg s1 .eax) v))

/-- MUL: its handler, then the next index (45_multiply_divide.md R159). -/
def execMul (ops : List Operand) (s : State) : Host.Outcome State Fault Refusal :=
  finish (advance (handleMul ops s))

/-- The low word of the signed product (45_multiply_divide.md R160). -/
def imulLo (a v : Word) : Word := BitVec.ofInt 32 (a.toInt * v.toInt)

/-- The two's-complement high word of the signed product (45_multiply_divide.md R160); the division rounds toward minus
infinity. -/
def imulHi (a v : Word) : Word := BitVec.ofInt 32 ((a.toInt * v.toInt) / 2 ^ 32)

/-- The handler of IMUL (45_multiply_divide.md R160). -/
def handleImul (ops : List Operand) (s : State) : Run Unit :=
  accumulatorOp .imul ops s fun v s1 =>
    .done () (setProduct s1 (imulLo (getReg s1 .eax) v) (imulHi (getReg s1 .eax) v))

/-- IMUL: its handler, then the next index (45_multiply_divide.md R160). -/
def execImul (ops : List Operand) (s : State) : Host.Outcome State Fault Refusal :=
  finish (advance (handleImul ops s))

/-- EAX, EDX and the flags after a division (45_multiply_divide.md R161 to R163). -/
def setQuotient (s : State) (q rem : Word) : State :=
  setFlags (setReg (setReg s .eax q) .edx rem) (flagsDiv s.mode s.flags q)

/-- The handler of DIV: a zero divisor is looked at before the dividend's high word (45_multiply_divide.md R161,
R162). -/
def handleDiv (ops : List Operand) (s : State) : Run Unit :=
  accumulatorOp .div ops s fun v s1 =>
    if v = 0 then .done () (setQuotient s1 0 0)
    else if getReg s1 .edx ≠ 0 then .refused .divideDividendUnknown
    else .done () (setQuotient s1 (getReg s1 .eax / v) (getReg s1 .eax % v))

/-- DIV: its handler, then the next index (45_multiply_divide.md R161, R162). -/
def execDiv (ops : List Operand) (s : State) : Host.Outcome State Fault Refusal :=
  finish (advance (handleDiv ops s))

/-- The sign extension of EAX that EDX must hold (45_multiply_divide.md R163). -/
def signWord (a : Word) : Word := if a.msb then 0xFFFFFFFF else 0

/-- IDIV's quotient, rounded toward zero (45_multiply_divide.md R163). -/
def idivQuotient (a v : Word) : Word := BitVec.ofInt 32 (a.toInt.tdiv v.toInt)

/-- IDIV's remainder, with the sign of the dividend or 0 (45_multiply_divide.md R163). -/
def idivRemainder (a v : Word) : Word := BitVec.ofInt 32 (a.toInt - a.toInt.tdiv v.toInt * v.toInt)

/-- The handler of IDIV (45_multiply_divide.md R161, R163). -/
def handleIdiv (ops : List Operand) (s : State) : Run Unit :=
  accumulatorOp .idiv ops s fun v s1 =>
    if v = 0 then .done () (setQuotient s1 0 0)
    else if getReg s1 .edx ≠ signWord (getReg s1 .eax) then .refused .divideDividendUnknown
    else if getReg s1 .eax = 0x80000000 ∧ v = 0xFFFFFFFF then .refused .divideOverflow
    else .done () (setQuotient s1 (idivQuotient (getReg s1 .eax) v) (idivRemainder (getReg s1 .eax) v))

/-- IDIV: its handler, then the next index (45_multiply_divide.md R161, R163). -/
def execIdiv (ops : List Operand) (s : State) : Host.Outcome State Fault Refusal :=
  finish (advance (handleIdiv ops s))

end Sys2Proof.Machine
end

