-- ==== Sys2Proof/Machine/ShiftRotate.lean ====
section
/-! DEFINITION. The shift and rotate instructions (44_shift_rotate.md). -/

namespace Sys2Proof.Machine

/-- The destination is a memory operand in a device's range (44_shift_rotate.md R150). -/
def mmioOperand (s : State) : Operand → Bool
  | .mem m => isMmio s.cfg (ea s m).toNat
  | _ => false

/-- The frame of every shift and rotate (44_shift_rotate.md R150). `f` is the result of prior flags, destination and
masked count; `fl` the flags of the state before they are written, the destination, the raw count, the masked count and
the result. -/
def shiftOp (m : Mnemonic) (f : Word → Word → Nat → Word) (fl : State → Word → Nat → Nat → Word → Word)
    (ops : List Operand) (s : State) : Run Unit :=
  operands2 m ops s fun dst count =>
    let body : Run Unit :=
      (readOp s count).bind fun n s1 =>
        if n.toNat % 32 = 0 then
          if mmioOperand s1 dst then .refused .zeroCountMmio else .done () s1
        else
          (readOp s1 dst).bind fun d s2 =>
            (writeOp s2 dst (f s2.flags d (n.toNat % 32))).bind fun _ s3 =>
              .done () (setFlags s3 (fl s3 d n.toNat (n.toNat % 32) (f s2.flags d (n.toNat % 32))))
    (formShift dst count).check s body body

/-- SHL's result (44_shift_rotate.md R151). -/
def shlWord (_f d : Word) (c : Nat) : Word := d <<< c

/-- SHR's result (44_shift_rotate.md R152). -/
def shrWord (_f d : Word) (c : Nat) : Word := d >>> c

/-- SAR's result (44_shift_rotate.md R153). -/
def sarWord (_f d : Word) (c : Nat) : Word := d.sshiftRight c

/-- ROL's result (44_shift_rotate.md R154). -/
def rolWord (_f d : Word) (c : Nat) : Word := (d <<< c) ||| (d >>> (32 - c))

/-- ROR's result (44_shift_rotate.md R155). -/
def rorWord (_f d : Word) (c : Nat) : Word := (d >>> c) ||| (d <<< (32 - c))

/-- The 33-bit value CF:d of the rotates through carry (44_shift_rotate.md R156). -/
def carryWord (f d : Word) : Nat := (if cf f then 2 ^ 32 else 0) + d.toNat

/-- CF:d rotated left by c within 33 bits (44_shift_rotate.md R156). -/
def rclWide (f d : Word) (c : Nat) : Nat := (carryWord f d * 2 ^ c + carryWord f d / 2 ^ (33 - c)) % 2 ^ 33

/-- CF:d rotated right by c within 33 bits (44_shift_rotate.md R157). -/
def rcrWide (f d : Word) (c : Nat) : Nat := (carryWord f d / 2 ^ c + carryWord f d * 2 ^ (33 - c)) % 2 ^ 33

/-- RCL's result (44_shift_rotate.md R156). -/
def rclWord (f d : Word) (c : Nat) : Word := BitVec.ofNat 32 (rclWide f d c)

/-- RCR's result (44_shift_rotate.md R157). -/
def rcrWord (f d : Word) (c : Nat) : Word := BitVec.ofNat 32 (rcrWide f d c)

/-- The handler of SHL (44_shift_rotate.md R151). -/
def handleShl (ops : List Operand) (s : State) : Run Unit :=
  shiftOp .shl shlWord (fun s d n c r => flagsShl s.cfg.shlCfRawCount s.flags d n c r) ops s

/-- SHL: its handler, then the next index (44_shift_rotate.md R151). -/
def execShl (ops : List Operand) (s : State) : Host.Outcome State Fault Refusal :=
  finish (advance (handleShl ops s))

/-- The handler of SHR (44_shift_rotate.md R152). -/
def handleShr (ops : List Operand) (s : State) : Run Unit :=
  shiftOp .shr shrWord (fun s d _ c r => flagsShr s.flags d c r) ops s

/-- SHR: its handler, then the next index (44_shift_rotate.md R152). -/
def execShr (ops : List Operand) (s : State) : Host.Outcome State Fault Refusal :=
  finish (advance (handleShr ops s))

/-- The handler of SAR (44_shift_rotate.md R153). -/
def handleSar (ops : List Operand) (s : State) : Run Unit :=
  shiftOp .sar sarWord (fun s d _ c r => flagsSar s.flags d c r) ops s

/-- SAR: its handler, then the next index (44_shift_rotate.md R153). -/
def execSar (ops : List Operand) (s : State) : Host.Outcome State Fault Refusal :=
  finish (advance (handleSar ops s))

/-- The handler of ROL (44_shift_rotate.md R154). -/
def handleRol (ops : List Operand) (s : State) : Run Unit :=
  shiftOp .rol rolWord (fun s _ _ c r => flagsRotL s.mode s.flags r (r.getLsbD 0) c) ops s

/-- ROL: its handler, then the next index (44_shift_rotate.md R154). -/
def execRol (ops : List Operand) (s : State) : Host.Outcome State Fault Refusal :=
  finish (advance (handleRol ops s))

/-- The handler of ROR (44_shift_rotate.md R155). -/
def handleRor (ops : List Operand) (s : State) : Run Unit :=
  shiftOp .ror rorWord (fun s _ _ c r => flagsRotR s.mode s.flags r r.msb c) ops s

/-- ROR: its handler, then the next index (44_shift_rotate.md R155). -/
def execRor (ops : List Operand) (s : State) : Host.Outcome State Fault Refusal :=
  finish (advance (handleRor ops s))

/-- The handler of RCL (44_shift_rotate.md R156). -/
def handleRcl (ops : List Operand) (s : State) : Run Unit :=
  shiftOp .rcl rclWord (fun s d _ c r => flagsRotL s.mode s.flags r ((rclWide s.flags d c).testBit 32) c) ops s

/-- RCL: its handler, then the next index (44_shift_rotate.md R156). -/
def execRcl (ops : List Operand) (s : State) : Host.Outcome State Fault Refusal :=
  finish (advance (handleRcl ops s))

/-- The handler of RCR (44_shift_rotate.md R157). -/
def handleRcr (ops : List Operand) (s : State) : Run Unit :=
  shiftOp .rcr rcrWord (fun s d _ c r => flagsRotR s.mode s.flags r ((rcrWide s.flags d c).testBit 32) c) ops s

/-- RCR: its handler, then the next index (44_shift_rotate.md R157). -/
def execRcr (ops : List Operand) (s : State) : Host.Outcome State Fault Refusal :=
  finish (advance (handleRcr ops s))

end Sys2Proof.Machine
end

