-- ==== Sys2Proof/Machine/Strings.lean ====
section
/-! DEFINITION. The string instructions (46_string.md). -/

namespace Sys2Proof.Machine

/-- A pointer register raised by 1, modulo 2^32 (46_string.md R164). -/
def bump (s : State) (r : Reg32) : State := setReg s r (getReg s r + 1)

/-- The handler of LODS (46_string.md R165). -/
def handleLods (ops : List Operand) (s : State) : Run Unit :=
  operands0 .lods ops s <|
    (memRead s (getReg s .esi) 1).bind fun v s1 => .done () (bump (setReg8 s1 .al (v.setWidth 8)) .esi)

/-- LODS: its handler, then the next index (46_string.md R165). -/
def execLods (ops : List Operand) (s : State) : Host.Outcome State Fault Refusal :=
  finish (advance (handleLods ops s))

/-- The handler of STOS (46_string.md R166). -/
def handleStos (ops : List Operand) (s : State) : Run Unit :=
  operands0 .stos ops s <|
    (memWrite s (getReg s .edi) 1 ((getReg8 s .al).setWidth 32)).bind fun _ s1 => .done () (bump s1 .edi)

/-- STOS: its handler, then the next index (46_string.md R166). -/
def execStos (ops : List Operand) (s : State) : Host.Outcome State Fault Refusal :=
  finish (advance (handleStos ops s))

/-- The handler of MOVS (46_string.md R167). -/
def handleMovs (ops : List Operand) (s : State) : Run Unit :=
  operands0 .movs ops s <|
    (memRead s (getReg s .esi) 1).bind fun v s1 =>
      (memWrite s1 (getReg s1 .edi) 1 v).bind fun _ s2 => .done () (bump (bump s2 .esi) .edi)

/-- MOVS: its handler, then the next index (46_string.md R167). -/
def execMovs (ops : List Operand) (s : State) : Host.Outcome State Fault Refusal :=
  finish (advance (handleMovs ops s))

/-- The flags of the byte subtraction a − b, none of it stored (40_flag_module.md R111). -/
def compareBytes (s : State) (a b : Byte) : State := setByteFlags s .sub a b (a - b)

/-- The handler of SCAS (46_string.md R168). -/
def handleScas (ops : List Operand) (s : State) : Run Unit :=
  operands0 .scas ops s <|
    (memRead s (getReg s .edi) 1).bind fun b s1 =>
      .done () (bump (compareBytes s1 (getReg8 s1 .al) (b.setWidth 8)) .edi)

/-- SCAS: its handler, then the next index (46_string.md R168). -/
def execScas (ops : List Operand) (s : State) : Host.Outcome State Fault Refusal :=
  finish (advance (handleScas ops s))

/-- The handler of CMPS (46_string.md R169). -/
def handleCmps (ops : List Operand) (s : State) : Run Unit :=
  operands0 .cmps ops s <|
    (memRead s (getReg s .esi) 1).bind fun a s1 =>
      (memRead s1 (getReg s1 .edi) 1).bind fun b s2 =>
        .done () (bump (bump (compareBytes s2 (a.setWidth 8) (b.setWidth 8)) .esi) .edi)

/-- CMPS: its handler, then the next index (46_string.md R169). -/
def execCmps (ops : List Operand) (s : State) : Host.Outcome State Fault Refusal :=
  finish (advance (handleCmps ops s))

end Sys2Proof.Machine
end

