-- ==== Sys2Proof/Machine/System.lean ====
section
/-! DEFINITION. The interrupt and system instructions (47_interrupt_system.md). -/

namespace Sys2Proof.Machine

/-- `chr(b)`: the character whose code point is the byte (47_interrupt_system.md R171). -/
def chr (b : Byte) : Char := Char.ofNat b.toNat

/-- The service that a vector selects (47_interrupt_system.md R170 to R174). -/
def service (v : Word) (s : State) : State :=
  if v = 0x10 then (if getReg8 s .ah = 0x0E then say s (chr (getReg8 s .al)) else s)
  else if v = 0x20 then halt s
  else if v = 0x21 then (if getReg8 s .ah = 0x02 then say s (chr (getReg8 s .dl)) else s)
  else s

/-- The handler of INT (47_interrupt_system.md R170). -/
def handleInt (ops : List Operand) (s : State) : Run Unit :=
  operands1 .int ops s fun n =>
    let body : Run Unit := (readOp s n).bind fun v s1 => .done () (service v s1)
    (formInt n).check s body body

/-- INT: its handler, then the next index (47_interrupt_system.md R170 to R174). -/
def execInt (ops : List Operand) (s : State) : Host.Outcome State Fault Refusal :=
  finish (advance (handleInt ops s))

/-- The handler of INT3 (47_interrupt_system.md R175). -/
def handleInt3 (ops : List Operand) (s : State) : Run Unit :=
  operands0 .int3 ops s (.done () (halt s))

/-- INT3: its handler, then the next index (47_interrupt_system.md R175). -/
def execInt3 (ops : List Operand) (s : State) : Host.Outcome State Fault Refusal :=
  finish (advance (handleInt3 ops s))

/-- The handler of IRET (47_interrupt_system.md R176). -/
def handleIret (ops : List Operand) (s : State) : Run Unit :=
  operands0 .iret ops s (.done () s)

/-- IRET: its handler, then the next index (47_interrupt_system.md R176). -/
def execIret (ops : List Operand) (s : State) : Host.Outcome State Fault Refusal :=
  finish (advance (handleIret ops s))

/-- The handler of HLT (47_interrupt_system.md R177). -/
def handleHlt (ops : List Operand) (s : State) : Run Unit :=
  operands0 .hlt ops s (.done () (halt s))

/-- HLT: its handler, then the next index (47_interrupt_system.md R177). -/
def execHlt (ops : List Operand) (s : State) : Host.Outcome State Fault Refusal :=
  finish (advance (handleHlt ops s))

end Sys2Proof.Machine
end

