-- ==== Sys2Proof/Machine/Dispatch.lean ====
section
/-! DEFINITION. One arm for each constructor of Instr: its whole effect in one step, but for the stepper's checks
before it and after it (Machine/Stepper.lean). -/

namespace Sys2Proof.Machine

def exec (i : Instr) (s : State) : Host.Outcome State Fault Refusal :=
  match i with
  | .mov ops => Sys2Proof.Machine.execMov ops s
  | .cmovo ops => Sys2Proof.Machine.execCmovo ops s
  | .cmovno ops => Sys2Proof.Machine.execCmovno ops s
  | .cmovb ops => Sys2Proof.Machine.execCmovb ops s
  | .cmovae ops => Sys2Proof.Machine.execCmovae ops s
  | .cmove ops => Sys2Proof.Machine.execCmove ops s
  | .cmovz ops => Sys2Proof.Machine.execCmovz ops s
  | .cmovne ops => Sys2Proof.Machine.execCmovne ops s
  | .cmovnz ops => Sys2Proof.Machine.execCmovnz ops s
  | .cmovbe ops => Sys2Proof.Machine.execCmovbe ops s
  | .cmova ops => Sys2Proof.Machine.execCmova ops s
  | .cmovs ops => Sys2Proof.Machine.execCmovs ops s
  | .cmovns ops => Sys2Proof.Machine.execCmovns ops s
  | .cmovl ops => Sys2Proof.Machine.execCmovl ops s
  | .cmovge ops => Sys2Proof.Machine.execCmovge ops s
  | .cmovle ops => Sys2Proof.Machine.execCmovle ops s
  | .cmovg ops => Sys2Proof.Machine.execCmovg ops s
  | .push ops => Sys2Proof.Machine.execPush ops s
  | .pop ops => Sys2Proof.Machine.execPop ops s
  | .lahf ops => Sys2Proof.Machine.execLahf ops s
  | .sahf ops => Sys2Proof.Machine.execSahf ops s
  | .bswap ops => Sys2Proof.Machine.execBswap ops s
  | .add ops => Sys2Proof.Machine.execAdd ops s
  | .sub ops => Sys2Proof.Machine.execSub ops s
  | .cmp ops => Sys2Proof.Machine.execCmp ops s
  | .inc ops => Sys2Proof.Machine.execInc ops s
  | .dec ops => Sys2Proof.Machine.execDec ops s
  | .neg ops => Sys2Proof.Machine.execNeg ops s
  | .xadd ops => Sys2Proof.Machine.execXadd ops s
  | .and ops => Sys2Proof.Machine.execAnd ops s
  | .or ops => Sys2Proof.Machine.execOr ops s
  | .xor ops => Sys2Proof.Machine.execXor ops s
  | .test ops => Sys2Proof.Machine.execTest ops s
  | .bsf ops => Sys2Proof.Machine.execBsf ops s
  | .bsr ops => Sys2Proof.Machine.execBsr ops s
  | .shl ops => Sys2Proof.Machine.execShl ops s
  | .shr ops => Sys2Proof.Machine.execShr ops s
  | .sar ops => Sys2Proof.Machine.execSar ops s
  | .rol ops => Sys2Proof.Machine.execRol ops s
  | .ror ops => Sys2Proof.Machine.execRor ops s
  | .rcl ops => Sys2Proof.Machine.execRcl ops s
  | .rcr ops => Sys2Proof.Machine.execRcr ops s
  | .mul ops => Sys2Proof.Machine.execMul ops s
  | .imul ops => Sys2Proof.Machine.execImul ops s
  | .div ops => Sys2Proof.Machine.execDiv ops s
  | .idiv ops => Sys2Proof.Machine.execIdiv ops s
  | .lods ops => Sys2Proof.Machine.execLods ops s
  | .stos ops => Sys2Proof.Machine.execStos ops s
  | .movs ops => Sys2Proof.Machine.execMovs ops s
  | .scas ops => Sys2Proof.Machine.execScas ops s
  | .cmps ops => Sys2Proof.Machine.execCmps ops s
  | .int ops => Sys2Proof.Machine.execInt ops s
  | .int3 ops => Sys2Proof.Machine.execInt3 ops s
  | .iret ops => Sys2Proof.Machine.execIret ops s
  | .hlt ops => Sys2Proof.Machine.execHlt ops s
  | .jmp ops => Sys2Proof.Machine.execJmp ops s
  | .je ops => Sys2Proof.Machine.execJe ops s
  | .jne ops => Sys2Proof.Machine.execJne ops s
  | .jg ops => Sys2Proof.Machine.execJg ops s
  | .jge ops => Sys2Proof.Machine.execJge ops s
  | .jl ops => Sys2Proof.Machine.execJl ops s
  | .jle ops => Sys2Proof.Machine.execJle ops s
  | .js ops => Sys2Proof.Machine.execJs ops s
  | .jns ops => Sys2Proof.Machine.execJns ops s
  | .ja ops => Sys2Proof.Machine.execJa ops s
  | .jae ops => Sys2Proof.Machine.execJae ops s
  | .jb ops => Sys2Proof.Machine.execJb ops s
  | .jbe ops => Sys2Proof.Machine.execJbe ops s
  | .call ops => Sys2Proof.Machine.execCall ops s
  | .ret ops => Sys2Proof.Machine.execRet ops s
  | .loop ops => Sys2Proof.Machine.execLoop ops s
  | .loope ops => Sys2Proof.Machine.execLoope ops s
  | .loopne ops => Sys2Proof.Machine.execLoopne ops s
  | .loopz ops => Sys2Proof.Machine.execLoopz ops s
  | .loopnz ops => Sys2Proof.Machine.execLoopnz ops s

end Sys2Proof.Machine
end

