-- ==== Sys2Proof/Decode.lean ====
section
/-! DEFINITION. The decoder, total on every record, and after it the encoder. The machine has no binary
encoding (30_encoding.md R69): an instruction is a record of strings, selected by its mnemonic, and its operand
tokens are resolved by the grammar of 30_encoding.md R72 to R76. The bit-level entry that the host's interface
asks for lays the record's text out as bytes, one character each (log entry 4). -/

namespace Sys2Proof

-- ## Text

/-- White space: space, tab, line feed, vertical tab, form feed, carriage return. The spec says "white space"
and gives no set. DESIGN CHOICE, unsafe: log entry 12. -/
def isSpace (c : Char) : Bool := c == ' ' || (9 ≤ c.toNat && c.toNat ≤ 13)

/-- `trim` of 30_encoding.md R72: no leading and no trailing white space. -/
def trim (t : Text) : Text := ((t.dropWhile isSpace).reverse.dropWhile isSpace).reverse

/-- `upper` of 30_encoding.md R70 and R72, over the letters a to z. DESIGN CHOICE, unsafe: log entry 13. -/
def upper (t : Text) : Text := t.map Char.toUpper

-- ## Names

/-- The mnemonics in upper case: the `match` column of opcode_table.json. -/
def Mnemonic.name : Mnemonic → Text
  | .mov => "MOV".toList
  | .cmovo => "CMOVO".toList
  | .cmovno => "CMOVNO".toList
  | .cmovb => "CMOVB".toList
  | .cmovae => "CMOVAE".toList
  | .cmove => "CMOVE".toList
  | .cmovz => "CMOVZ".toList
  | .cmovne => "CMOVNE".toList
  | .cmovnz => "CMOVNZ".toList
  | .cmovbe => "CMOVBE".toList
  | .cmova => "CMOVA".toList
  | .cmovs => "CMOVS".toList
  | .cmovns => "CMOVNS".toList
  | .cmovl => "CMOVL".toList
  | .cmovge => "CMOVGE".toList
  | .cmovle => "CMOVLE".toList
  | .cmovg => "CMOVG".toList
  | .push => "PUSH".toList
  | .pop => "POP".toList
  | .lahf => "LAHF".toList
  | .sahf => "SAHF".toList
  | .bswap => "BSWAP".toList
  | .add => "ADD".toList
  | .sub => "SUB".toList
  | .cmp => "CMP".toList
  | .inc => "INC".toList
  | .dec => "DEC".toList
  | .neg => "NEG".toList
  | .xadd => "XADD".toList
  | .and => "AND".toList
  | .or => "OR".toList
  | .xor => "XOR".toList
  | .test => "TEST".toList
  | .bsf => "BSF".toList
  | .bsr => "BSR".toList
  | .shl => "SHL".toList
  | .shr => "SHR".toList
  | .sar => "SAR".toList
  | .rol => "ROL".toList
  | .ror => "ROR".toList
  | .rcl => "RCL".toList
  | .rcr => "RCR".toList
  | .mul => "MUL".toList
  | .imul => "IMUL".toList
  | .div => "DIV".toList
  | .idiv => "IDIV".toList
  | .lods => "LODS".toList
  | .stos => "STOS".toList
  | .movs => "MOVS".toList
  | .scas => "SCAS".toList
  | .cmps => "CMPS".toList
  | .int => "INT".toList
  | .int3 => "INT3".toList
  | .iret => "IRET".toList
  | .hlt => "HLT".toList
  | .jmp => "JMP".toList
  | .je => "JE".toList
  | .jne => "JNE".toList
  | .jg => "JG".toList
  | .jge => "JGE".toList
  | .jl => "JL".toList
  | .jle => "JLE".toList
  | .js => "JS".toList
  | .jns => "JNS".toList
  | .ja => "JA".toList
  | .jae => "JAE".toList
  | .jb => "JB".toList
  | .jbe => "JBE".toList
  | .call => "CALL".toList
  | .ret => "RET".toList
  | .loop => "LOOP".toList
  | .loope => "LOOPE".toList
  | .loopne => "LOOPNE".toList
  | .loopz => "LOOPZ".toList
  | .loopnz => "LOOPNZ".toList

/-- The data movement mnemonics (30_encoding.md R71). -/
def movementMnemonics : List Mnemonic :=
  [.mov, .cmovo, .cmovno, .cmovb, .cmovae, .cmove, .cmovz, .cmovne, .cmovnz, .cmovbe, .cmova, .cmovs, .cmovns, .cmovl, .cmovge, .cmovle, .cmovg, .push, .pop, .lahf, .sahf, .bswap]

/-- The arithmetic mnemonics (30_encoding.md R71). -/
def arithmeticMnemonics : List Mnemonic :=
  [.add, .sub, .cmp, .inc, .dec, .neg, .xadd]

/-- The logical and bit scan mnemonics (30_encoding.md R71). -/
def logicalMnemonics : List Mnemonic :=
  [.and, .or, .xor, .test, .bsf, .bsr]

/-- The shift and rotate mnemonics (30_encoding.md R71). -/
def shiftMnemonics : List Mnemonic :=
  [.shl, .shr, .sar, .rol, .ror, .rcl, .rcr]

/-- The multiply and divide mnemonics (30_encoding.md R71). -/
def multiplyMnemonics : List Mnemonic :=
  [.mul, .imul, .div, .idiv]

/-- The string mnemonics (30_encoding.md R71). -/
def stringMnemonics : List Mnemonic :=
  [.lods, .stos, .movs, .scas, .cmps]

/-- The interrupt and system mnemonics (30_encoding.md R71). -/
def systemMnemonics : List Mnemonic :=
  [.int, .int3, .iret, .hlt]

/-- The control flow mnemonics (30_encoding.md R71). -/
def controlMnemonics : List Mnemonic :=
  [.jmp, .je, .jne, .jg, .jge, .jl, .jle, .js, .jns, .ja, .jae, .jb, .jbe, .call, .ret, .loop, .loope, .loopne, .loopz, .loopnz]

/-- Every admitted mnemonic, by family (30_encoding.md R71). -/
def allMnemonics : List Mnemonic :=
  movementMnemonics ++ arithmeticMnemonics ++ logicalMnemonics ++ shiftMnemonics ++
    multiplyMnemonics ++ stringMnemonics ++ systemMnemonics ++ controlMnemonics

/-- The mnemonic a name selects, once in upper case (30_encoding.md R70). -/
def mnemonicOf (t : Text) : Option Mnemonic := allMnemonics.find? (fun m => m.name == t)

/-- The 32-bit register names (30_encoding.md R73). -/
def Reg32.name : Reg32 → Text
  | .eax => "EAX".toList
  | .ecx => "ECX".toList
  | .edx => "EDX".toList
  | .ebx => "EBX".toList
  | .esp => "ESP".toList
  | .ebp => "EBP".toList
  | .esi => "ESI".toList
  | .edi => "EDI".toList

/-- The eight registers in index order (10_state.md R21). -/
def allReg32 : List Reg32 := [.eax, .ecx, .edx, .ebx, .esp, .ebp, .esi, .edi]

/-- The 32-bit register a name means, without regard to case (30_encoding.md R73). -/
def reg32Of (t : Text) : Option Reg32 := allReg32.find? (fun r => r.name == upper t)

/-- The 8-bit register names (30_encoding.md R73). -/
def Reg8.name : Reg8 → Text
  | .al => "AL".toList
  | .cl => "CL".toList
  | .dl => "DL".toList
  | .bl => "BL".toList
  | .ah => "AH".toList
  | .ch => "CH".toList
  | .dh => "DH".toList
  | .bh => "BH".toList

/-- The eight sub-registers. -/
def allReg8 : List Reg8 := [.al, .cl, .dl, .bl, .ah, .ch, .dh, .bh]

/-- The 8-bit register a name means, without regard to case (30_encoding.md R73). -/
def reg8Of (t : Text) : Option Reg8 := allReg8.find? (fun r => r.name == upper t)

-- ## Immediates

/-- What a literal reads as: a value, a parse error, or a form the spec refuses (30_encoding.md R75). -/
inductive Literal where
  | value (v : Word)
  | malformed
  | unshown
  deriving DecidableEq, Repr

/-- `[0-9]`. -/
def decDigit (c : Char) : Option Nat :=
  if 48 ≤ c.toNat ∧ c.toNat ≤ 57 then some (c.toNat - 48) else none

/-- `[0-9A-Fa-f]`. -/
def hexDigit (c : Char) : Option Nat :=
  if 48 ≤ c.toNat ∧ c.toNat ≤ 57 then some (c.toNat - 48)
  else if 65 ≤ c.toNat ∧ c.toNat ≤ 70 then some (c.toNat - 55)
  else if 97 ≤ c.toNat ∧ c.toNat ≤ 102 then some (c.toNat - 87)
  else none

/-- `[01]`. -/
def binDigit (c : Char) : Option Nat :=
  if c.toNat = 48 then some 0 else if c.toNat = 49 then some 1 else none

/-- The number that digits in a base write, after those already read; none at a character that is no digit. -/
def digitsFrom (base : Nat) (digit : Char → Option Nat) : Nat → Text → Option Nat
  | acc, [] => some acc
  | acc, c :: cs =>
    match digit c with
    | some d => digitsFrom base digit (acc * base + d) cs
    | none => none

/-- One or more digits in a base. -/
def digits (base : Nat) (digit : Char → Option Nat) : Text → Option Nat
  | [] => none
  | c :: cs => digitsFrom base digit 0 (c :: cs)

/-- A number as a literal, reduced modulo 2^32 (30_encoding.md R75). -/
def literalOf : Option Nat → Literal
  | some n => .value (BitVec.ofNat 32 n)
  | none => .malformed

/-- An immediate without a sign: decimal, `0x` hexadecimal or `0b` binary; the upper-case spellings `0X` and `0B`
are refused (30_encoding.md R75). -/
def parseUnsigned (t : Text) : Literal :=
  if t.take 2 = ['0', 'x'] then literalOf (digits 16 hexDigit (t.drop 2))
  else if t.take 2 = ['0', 'b'] then literalOf (digits 2 binDigit (t.drop 2))
  else if t.take 2 = ['0', 'X'] ∨ t.take 2 = ['0', 'B'] then .unshown
  else literalOf (digits 10 decDigit t)

/-- An immediate of 30_encoding.md R75; only a decimal one may carry a minus sign. -/
def parseImm (t : Text) : Literal :=
  if t.head? = some '-' then
    match digits 10 decDigit t.tail with
    | some n => .value (-BitVec.ofNat 32 n)
    | none => .malformed
  else parseUnsigned t

-- ## Operand tokens

/-- The character literal `' c '`: a quote, one character, a quote. Its value is the character's code point
(30_encoding.md R74). -/
def charLiteral : Text → Option Word
  | [a, c, b] => if a = '\'' ∧ b = '\'' then some (BitVec.ofNat 32 c.toNat) else none
  | _ => none

/-- What stands between `[` and `]` in a token that starts with the one and ends with the other, without its
white space (30_encoding.md R72). -/
def bracketed (t : Text) : Option Text :=
  if t.head? = some '[' ∧ t.getLast? = some ']' then some (t.tail.dropLast.filter (fun c => !isSpace c)) else none

/-- The text before the first `+` or `-`, whether that sign is `+`, and the text after it. -/
def splitSign : Text → Option (Text × Bool × Text)
  | [] => none
  | c :: cs =>
    if c = '+' then some ([], true, cs)
    else if c = '-' then some ([], false, cs)
    else
      match splitSign cs with
      | some (before, plus, after) => some (c :: before, plus, after)
      | none => none

/-- A displacement or an absolute address as part of a memory operand. A `0X` or `0B` literal there is refused, as
in a token of its own. DEDUCED, safe: log entry 14. -/
def memOf (tok : Text) (shape : Word → MemShape) : Literal → Operand
  | .value n => .mem (shape n)
  | .malformed => .malformed tok
  | .unshown => .unshown tok

/-- The five shapes of 30_encoding.md R76; everything else in brackets is a parse error of the whole token. -/
def parseBracket (tok inner : Text) : Operand :=
  match splitSign inner with
  | some (before, plus, after) =>
    match reg32Of before with
    | none => .malformed tok
    | some r =>
      if plus then
        match reg32Of after with
        | some r2 => .mem (.regReg r r2)
        | none => memOf tok (.regPlus r) (parseUnsigned after)
      else memOf tok (.regMinus r) (parseUnsigned after)
  | none =>
    match reg32Of inner with
    | some r => .mem (.reg r)
    | none => memOf tok .abs (parseUnsigned inner)

/-- The resolver of a trimmed token, in the priority order of 30_encoding.md R72. -/
def resolveTrimmed (t : Text) : Operand :=
  match charLiteral t with
  | some v => .imm v
  | none =>
    match bracketed t with
    | some inner => parseBracket t inner
    | none =>
      match reg8Of t with
      | some r => .reg8 r
      | none =>
        match reg32Of t with
        | some r => .reg32 r
        | none =>
          match parseImm t with
          | .value v => .imm v
          | .malformed => .malformed t
          | .unshown => .unshown t

/-- The resolver (30_encoding.md R72): a token to a tagged operand. It reads no register (R78). -/
def resolve (token : Text) : Operand := resolveTrimmed (trim token)

-- ## Records

/-- The instruction a mnemonic makes of a record's operand tokens. The targets of the control-flow
instructions are label names, trimmed and never resolved (30_encoding.md R80). -/
def Mnemonic.build (m : Mnemonic) (tokens : List Text) : Instr :=
  match m with
  | .mov => .mov (tokens.map resolve)
  | .cmovo => .cmovo (tokens.map resolve)
  | .cmovno => .cmovno (tokens.map resolve)
  | .cmovb => .cmovb (tokens.map resolve)
  | .cmovae => .cmovae (tokens.map resolve)
  | .cmove => .cmove (tokens.map resolve)
  | .cmovz => .cmovz (tokens.map resolve)
  | .cmovne => .cmovne (tokens.map resolve)
  | .cmovnz => .cmovnz (tokens.map resolve)
  | .cmovbe => .cmovbe (tokens.map resolve)
  | .cmova => .cmova (tokens.map resolve)
  | .cmovs => .cmovs (tokens.map resolve)
  | .cmovns => .cmovns (tokens.map resolve)
  | .cmovl => .cmovl (tokens.map resolve)
  | .cmovge => .cmovge (tokens.map resolve)
  | .cmovle => .cmovle (tokens.map resolve)
  | .cmovg => .cmovg (tokens.map resolve)
  | .push => .push (tokens.map resolve)
  | .pop => .pop (tokens.map resolve)
  | .lahf => .lahf (tokens.map resolve)
  | .sahf => .sahf (tokens.map resolve)
  | .bswap => .bswap (tokens.map resolve)
  | .add => .add (tokens.map resolve)
  | .sub => .sub (tokens.map resolve)
  | .cmp => .cmp (tokens.map resolve)
  | .inc => .inc (tokens.map resolve)
  | .dec => .dec (tokens.map resolve)
  | .neg => .neg (tokens.map resolve)
  | .xadd => .xadd (tokens.map resolve)
  | .and => .and (tokens.map resolve)
  | .or => .or (tokens.map resolve)
  | .xor => .xor (tokens.map resolve)
  | .test => .test (tokens.map resolve)
  | .bsf => .bsf (tokens.map resolve)
  | .bsr => .bsr (tokens.map resolve)
  | .shl => .shl (tokens.map resolve)
  | .shr => .shr (tokens.map resolve)
  | .sar => .sar (tokens.map resolve)
  | .rol => .rol (tokens.map resolve)
  | .ror => .ror (tokens.map resolve)
  | .rcl => .rcl (tokens.map resolve)
  | .rcr => .rcr (tokens.map resolve)
  | .mul => .mul (tokens.map resolve)
  | .imul => .imul (tokens.map resolve)
  | .div => .div (tokens.map resolve)
  | .idiv => .idiv (tokens.map resolve)
  | .lods => .lods (tokens.map resolve)
  | .stos => .stos (tokens.map resolve)
  | .movs => .movs (tokens.map resolve)
  | .scas => .scas (tokens.map resolve)
  | .cmps => .cmps (tokens.map resolve)
  | .int => .int (tokens.map resolve)
  | .int3 => .int3 (tokens.map resolve)
  | .iret => .iret (tokens.map resolve)
  | .hlt => .hlt (tokens.map resolve)
  | .jmp => .jmp (tokens.map trim)
  | .je => .je (tokens.map trim)
  | .jne => .jne (tokens.map trim)
  | .jg => .jg (tokens.map trim)
  | .jge => .jge (tokens.map trim)
  | .jl => .jl (tokens.map trim)
  | .jle => .jle (tokens.map trim)
  | .js => .js (tokens.map trim)
  | .jns => .jns (tokens.map trim)
  | .ja => .ja (tokens.map trim)
  | .jae => .jae (tokens.map trim)
  | .jb => .jb (tokens.map trim)
  | .jbe => .jbe (tokens.map trim)
  | .call => .call (tokens.map trim)
  | .ret => .ret (tokens.map trim)
  | .loop => .loop (tokens.map trim)
  | .loope => .loope (tokens.map trim)
  | .loopne => .loopne (tokens.map trim)
  | .loopz => .loopz (tokens.map trim)
  | .loopnz => .loopnz (tokens.map trim)

/-- Why a record decodes to no instruction. -/
inductive DecodeError where
  /-- The mnemonic is not one of the 75 (30_encoding.md R70). -/
  | mnemonicNotAdmitted (mnemonic : Text)
  deriving DecidableEq, Repr

/-- Decode a record: its mnemonic, without regard to case, selects the instruction (30_encoding.md R70). -/
def decode (rec : Record) : Except DecodeError Instr :=
  match mnemonicOf (upper rec.mnemonic) with
  | some m => .ok (m.build rec.operands)
  | none => .error (.mnemonicNotAdmitted rec.mnemonic)

-- ## The text of a record, as bytes

/-- The operand tokens of a line's text: separated by commas (30_encoding.md R92), a comma within a character
literal apart. The first argument is how many characters of a character literal are still to come, the third the
token so far, reversed. -/
def splitOperands : Nat → Text → Text → List Text
  | _, [], token => [token.reverse]
  | n + 1, c :: cs, token => splitOperands n cs (c :: token)
  | 0, c :: cs, token =>
    if c = '\'' ∧ (cs.drop 1).head? = some '\'' then splitOperands 2 cs (c :: token)
    else if c = ',' then token.reverse :: splitOperands 0 cs []
    else splitOperands 0 cs (c :: token)

/-- The record of a line's text `MNEMONIC op1,op2` (30_encoding.md R92): the mnemonic is the first word. -/
def recordOfText (line : Int) (t : Text) : Record where
  line := line
  mnemonic := t.takeWhile (fun c => c != ' ')
  operands :=
    match t.dropWhile (fun c => c != ' ') with
    | [] => []
    | _ :: rest => splitOperands 0 rest []
  raw := t

/-- The first `n` bytes of a number, the low byte first. -/
def bytesOf : Nat → Nat → List Nat
  | 0, _ => []
  | n + 1, w => w % 256 :: bytesOf n (w / 256)

/-- The text that `nbits` bits of `w` spell: a character a byte, up to the first zero byte. DESIGN CHOICE,
unsafe: log entry 4. -/
def textOfWord (nbits w : Nat) : Text :=
  ((bytesOf ((nbits + 7) / 8) w).takeWhile (fun b => b != 0)).map Char.ofNat

/-- The record that `nbits` bits of `w` spell, as line 1 of a program. Log entry 4. -/
def recordOfWord (nbits w : Nat) : Record := recordOfText 1 (textOfWord nbits w)

/-- The instruction the decoder reads from the record whose text `w` spells. Log entry 4. -/
def decodeTableWord (nbits w : Nat) : Option Instr :=
  match decode (recordOfWord nbits w) with
  | .ok i => some i
  | .error _ => none

-- ## The encoder

/-- A hexadecimal digit. -/
def hexChar (n : Nat) : Char := if n < 10 then Char.ofNat (48 + n) else Char.ofNat (55 + n)

/-- The low `n` hexadecimal digits of a number, the highest first. -/
def hexDigits : Nat → Nat → Text
  | 0, _ => []
  | n + 1, v => hexChar (v / 16 ^ n % 16) :: hexDigits n v

/-- A word as a `0x` literal of eight digits (30_encoding.md R75). -/
def wordToken (v : Word) : Text := '0' :: 'x' :: hexDigits 8 v.toNat

/-- What stands between the brackets of a memory operand (30_encoding.md R76). -/
def MemShape.inner : MemShape → Text
  | .reg r => r.name
  | .regPlus r n => r.name ++ '+' :: wordToken n
  | .regMinus r n => r.name ++ '-' :: wordToken n
  | .regReg r r2 => r.name ++ '+' :: r2.name
  | .abs n => wordToken n

/-- A token that resolves to an operand. A failed operand is written as the token that failed. -/
def operandToken : Operand → Text
  | .reg32 r => r.name
  | .reg8 r => r.name
  | .imm v => wordToken v
  | .mem m => '[' :: (m.inner ++ [']'])
  | .malformed tok => tok
  | .unshown tok => tok

/-- The operand tokens of an instruction. -/
def Instr.tokens : Instr → List Text
  | .mov ops => ops.map operandToken
  | .cmovo ops => ops.map operandToken
  | .cmovno ops => ops.map operandToken
  | .cmovb ops => ops.map operandToken
  | .cmovae ops => ops.map operandToken
  | .cmove ops => ops.map operandToken
  | .cmovz ops => ops.map operandToken
  | .cmovne ops => ops.map operandToken
  | .cmovnz ops => ops.map operandToken
  | .cmovbe ops => ops.map operandToken
  | .cmova ops => ops.map operandToken
  | .cmovs ops => ops.map operandToken
  | .cmovns ops => ops.map operandToken
  | .cmovl ops => ops.map operandToken
  | .cmovge ops => ops.map operandToken
  | .cmovle ops => ops.map operandToken
  | .cmovg ops => ops.map operandToken
  | .push ops => ops.map operandToken
  | .pop ops => ops.map operandToken
  | .lahf ops => ops.map operandToken
  | .sahf ops => ops.map operandToken
  | .bswap ops => ops.map operandToken
  | .add ops => ops.map operandToken
  | .sub ops => ops.map operandToken
  | .cmp ops => ops.map operandToken
  | .inc ops => ops.map operandToken
  | .dec ops => ops.map operandToken
  | .neg ops => ops.map operandToken
  | .xadd ops => ops.map operandToken
  | .and ops => ops.map operandToken
  | .or ops => ops.map operandToken
  | .xor ops => ops.map operandToken
  | .test ops => ops.map operandToken
  | .bsf ops => ops.map operandToken
  | .bsr ops => ops.map operandToken
  | .shl ops => ops.map operandToken
  | .shr ops => ops.map operandToken
  | .sar ops => ops.map operandToken
  | .rol ops => ops.map operandToken
  | .ror ops => ops.map operandToken
  | .rcl ops => ops.map operandToken
  | .rcr ops => ops.map operandToken
  | .mul ops => ops.map operandToken
  | .imul ops => ops.map operandToken
  | .div ops => ops.map operandToken
  | .idiv ops => ops.map operandToken
  | .lods ops => ops.map operandToken
  | .stos ops => ops.map operandToken
  | .movs ops => ops.map operandToken
  | .scas ops => ops.map operandToken
  | .cmps ops => ops.map operandToken
  | .int ops => ops.map operandToken
  | .int3 ops => ops.map operandToken
  | .iret ops => ops.map operandToken
  | .hlt ops => ops.map operandToken
  | .jmp ops => ops
  | .je ops => ops
  | .jne ops => ops
  | .jg ops => ops
  | .jge ops => ops
  | .jl ops => ops
  | .jle ops => ops
  | .js ops => ops
  | .jns ops => ops
  | .ja ops => ops
  | .jae ops => ops
  | .jb ops => ops
  | .jbe ops => ops
  | .call ops => ops
  | .ret ops => ops
  | .loop ops => ops
  | .loope ops => ops
  | .loopne ops => ops
  | .loopz ops => ops
  | .loopnz ops => ops

/-- Tokens with commas between them. -/
def joinOperands : List Text → Text
  | [] => []
  | [t] => t
  | t :: ts => t ++ ',' :: joinOperands ts

/-- The line's text of a mnemonic and its tokens (30_encoding.md R92). -/
def lineText (mnemonic : Text) : List Text → Text
  | [] => mnemonic
  | ts => mnemonic ++ ' ' :: joinOperands ts

/-- The record of an instruction, as line 0 of a program: the only encoding the machine has (30_encoding.md R69). -/
def encode (i : Instr) : Record where
  line := 0
  mnemonic := i.mnemonic.name
  operands := i.tokens
  raw := lineText i.mnemonic.name i.tokens

end Sys2Proof
end

