-- ==== Sys2Proof/Machine/Stepper.lean ====
section
/-! DEFINITION. The stepper around an instruction: the checks before it, the fetch, and the end of the step
(48_control_flow.md R178 to R180). -/

namespace Sys2Proof.Machine

/-- The record at the pointer (20_memory.md R47). -/
def fetch (s : State) : Option Record := s.prog[s.pc]?

/-- The end of a step that ran an instruction: past the end of the program the engine halts, and the line goes to the
host (48_control_flow.md R178, R180). -/
def endOfStep (line : Int) (s : State) : State :=
  setReport (if s.prog.length ≤ s.pc then halt s else s) (.returned line)

/-- The end of a step from the instruction's outcome: a step that faulted returns no line (60_exceptions.md R209). -/
def finishStep (line : Int) (o : Host.Outcome State Fault Refusal) : Host.Outcome State Fault Refusal :=
  match o with
  | .next t => .next (if t.faulted then t else endOfStep line t)
  | .fault f => .fault f
  | .refused r => .refused r

/-- STEP (48_control_flow.md R178), given what runs an instruction. An ill-formed configuration is refused first
(00_scope.md R10). -/
def stepWith (run : Instr → State → Host.Outcome State Fault Refusal) (s : State) :
    Host.Outcome State Fault Refusal :=
  if !configOk s.cfg then .refused .badConfiguration
  else if s.faulted then .fault .stepWhileFaulted
  else if s.halted then .next (setReport s (.returned (-1)))
  else
    match fetch s with
    | none => .next (setReport (halt s) (.returned (-1)))
    | some rec =>
      match decode rec with
      | .error _ => .refused .mnemonicNotAdmitted
      | .ok i => finishStep rec.line (run i s)

/-- A one-record program in place, ready to run: what the host's LOAD would leave (70_reset_and_hazards.md R226), with
the labels as they are. Log entry 3. -/
def loadRecord (s : State) (rec : Record) : State :=
  { s with prog := [rec], pc := 0, halted := false, faulted := false }

end Sys2Proof.Machine
end

