-- ==== Sys2Proof/Machine/Step.lean ====
section
/-! DEFINITION. One step of the machine: the host operation STEP. -/

namespace Sys2Proof.Machine

/-- STEP (48_control_flow.md R178, 70_reset_and_hazards.md R227). -/
def step (s : State) : Host.Outcome State Fault Refusal := stepWith exec s

/-- The state whose next step runs the record that `nbits` bits of `w` spell: the machine loads its program from
outside, so this stands for that load. Log entries 3 and 4. -/
def State.withFetchWord (s : State) (nbits w : Nat) : State := loadRecord s (recordOfWord nbits w)

end Sys2Proof.Machine
end

