-- ==== Sys2Proof/Machine/HostOps.lean ====
section
/-! DEFINITION. The host operations (70_reset_and_hazards.md R225 to R241, 20_memory.md R61): each a function from
state and arguments to state and result (70_reset_and_hazards.md R242). -/

namespace Sys2Proof.Machine

/-- The handler of an instruction, without the stepper (30_encoding.md R94, 48_control_flow.md R206). -/
def handler (i : Instr) (s : State) : Run Unit :=
  match i with
  | .mov ops => handleMov ops s
  | .cmovo ops => handleCmovo ops s
  | .cmovno ops => handleCmovno ops s
  | .cmovb ops => handleCmovb ops s
  | .cmovae ops => handleCmovae ops s
  | .cmove ops => handleCmove ops s
  | .cmovz ops => handleCmovz ops s
  | .cmovne ops => handleCmovne ops s
  | .cmovnz ops => handleCmovnz ops s
  | .cmovbe ops => handleCmovbe ops s
  | .cmova ops => handleCmova ops s
  | .cmovs ops => handleCmovs ops s
  | .cmovns ops => handleCmovns ops s
  | .cmovl ops => handleCmovl ops s
  | .cmovge ops => handleCmovge ops s
  | .cmovle ops => handleCmovle ops s
  | .cmovg ops => handleCmovg ops s
  | .push ops => handlePush ops s
  | .pop ops => handlePop ops s
  | .lahf ops => handleLahf ops s
  | .sahf ops => handleSahf ops s
  | .bswap ops => handleBswap ops s
  | .add ops => handleAdd ops s
  | .sub ops => handleSub ops s
  | .cmp ops => handleCmp ops s
  | .inc ops => handleInc ops s
  | .dec ops => handleDec ops s
  | .neg ops => handleNeg ops s
  | .xadd ops => handleXadd ops s
  | .and ops => handleAnd ops s
  | .or ops => handleOr ops s
  | .xor ops => handleXor ops s
  | .test ops => handleTest ops s
  | .bsf ops => handleBsf ops s
  | .bsr ops => handleBsr ops s
  | .shl ops => handleShl ops s
  | .shr ops => handleShr ops s
  | .sar ops => handleSar ops s
  | .rol ops => handleRol ops s
  | .ror ops => handleRor ops s
  | .rcl ops => handleRcl ops s
  | .rcr ops => handleRcr ops s
  | .mul ops => handleMul ops s
  | .imul ops => handleImul ops s
  | .div ops => handleDiv ops s
  | .idiv ops => handleIdiv ops s
  | .lods ops => handleLods ops s
  | .stos ops => handleStos ops s
  | .movs ops => handleMovs ops s
  | .scas ops => handleScas ops s
  | .cmps ops => handleCmps ops s
  | .int ops => handleInt ops s
  | .int3 ops => handleInt3 ops s
  | .iret ops => handleIret ops s
  | .hlt ops => handleHlt ops s
  | .jmp ops => handleJmp ops s
  | .je ops => handleJe ops s
  | .jne ops => handleJne ops s
  | .jg ops => handleJg ops s
  | .jge ops => handleJge ops s
  | .jl ops => handleJl ops s
  | .jle ops => handleJle ops s
  | .js ops => handleJs ops s
  | .jns ops => handleJns ops s
  | .ja ops => handleJa ops s
  | .jae ops => handleJae ops s
  | .jb ops => handleJb ops s
  | .jbe ops => handleJbe ops s
  | .call ops => handleCall ops s
  | .ret ops => handleRet ops s
  | .loop ops => handleLoop ops s
  | .loope ops => handleLoope ops s
  | .loopne ops => handleLoopne ops s
  | .loopz ops => handleLoopz ops s
  | .loopnz ops => handleLoopnz ops s

/-- RESET (70_reset_and_hazards.md R225). The model's own report goes back to nothing and its draw counter stays. -/
def hostReset (s : State) : State :=
  { s with
    regs := Regs.reset s.cfg.spReset
    flags := 0
    bankA := []
    bankB := []
    pixels := []
    kq := []
    lastCode := 0
    lastState := 0
    pc := 0
    cs := []
    halted := false
    faulted := false
    running := false
    report := .nothing }

/-- LOAD (70_reset_and_hazards.md R226). -/
def hostLoad (s : State) (records : List Record) (labels : List (Text × Nat)) : State :=
  { s with
    prog := records
    labels := labels
    pc := 0
    cs := []
    halted := false
    faulted := false
    report := .nothing }

/-- EXEC: a record's handler without the stepper (70_reset_and_hazards.md R228). It returns nothing. -/
def hostExec (s : State) (rec : Record) : Host.Outcome State Fault Refusal :=
  if s.faulted then .fault .stepWhileFaulted
  else
    match decode rec with
    | .error _ => .refused .mnemonicNotAdmitted
    | .ok i => finish (handler i (setReport s .nothing))

/-- SET_MODE (70_reset_and_hazards.md R229). -/
def hostSetMode (s : State) (m : Mode) : State := { s with mode := m }

/-- KBD_PUSH (70_reset_and_hazards.md R230). -/
def hostKbdPush (s : State) (code : Byte) (pressed : Bool) : State := { s with kq := s.kq ++ [(code, pressed)] }

/-- KBD_POP's state (70_reset_and_hazards.md R231). -/
def hostKbdPop (s : State) : State :=
  match s.kq with
  | [] => s
  | event :: rest => popEvent s event rest

/-- A line put into a rising list of lines, once. -/
def insertLine (line : Int) : List Int → List Int
  | [] => [line]
  | l :: rest => if line < l then line :: l :: rest else if line = l then l :: rest else l :: insertLine line rest

/-- BP_ADD (70_reset_and_hazards.md R232). -/
def hostBpAdd (s : State) (line : Int) : State := { s with bps := insertLine line s.bps }

/-- BP_REMOVE (70_reset_and_hazards.md R233). -/
def hostBpRemove (s : State) (line : Int) : State := { s with bps := s.bps.filter (fun l => l != line) }

/-- SET_RUNNING (70_reset_and_hazards.md R234). -/
def hostSetRunning (s : State) (b : Bool) : State := { s with running := b }

/-- CONSOLE_CLEAR (70_reset_and_hazards.md R241). -/
def hostConsoleClear (s : State) : State := { s with console := [] }

/-- The tuple of SNAPSHOT (70_reset_and_hazards.md R235). -/
structure Snapshot where
  regs : Regs
  flags : Word
  halted : Bool
  running : Bool
  pc : Nat
  depth : Nat
  deriving DecidableEq, Repr

/-- SNAPSHOT (70_reset_and_hazards.md R235). -/
def hostSnapshot (s : State) : Snapshot where
  regs := s.regs
  flags := s.flags
  halted := s.halted
  running := s.running
  pc := s.pc
  depth := s.cs.length

/-- REG_READ: none for a name that is none of the sixteen (70_reset_and_hazards.md R236). -/
def hostRegRead (s : State) (name : Text) : Option Word :=
  match reg32Of name with
  | some r => some (getReg s r)
  | none =>
    match reg8Of name with
    | some r => some ((getReg8 s r).setWidth 32)
    | none => none

/-- The two banks. -/
inductive Bank where
  | a
  | b
  deriving DecidableEq, Repr

/-- A bank's contents (10_state.md R34). -/
def bankOf (s : State) : Bank → Memory
  | .a => s.bankA
  | .b => s.bankB

/-- The bytes of a byte array from an index. -/
def bytesFrom (m : Memory) (start len : Nat) : List Byte := (List.range len).map (fun i => m.read (start + i))

/-- READ_IO: a device's byte, or the error, which goes to the host alone (20_memory.md R61). -/
def hostReadIo (s : State) (addr : Nat) : State × Except EngineFault Byte :=
  if isMmio s.cfg addr then (devTouch s addr, .ok (devPeek s addr)) else (s, .error (.unknownIOAddress addr))

/-- WRITE_IO: the byte `v mod 256` to a device, or the error, which goes to the host alone (20_memory.md R61). DEDUCED:
R61 gives `v` no range and lists no precondition, so the model takes every integer, a negative one too, and `mod` is that
of 00_scope.md R11. Log entry 25. -/
def hostWriteIo (s : State) (addr : Nat) (v : Int) : State × Except EngineFault Unit :=
  if isMmio s.cfg addr then (devPoke s addr (BitVec.ofInt 8 v), .ok ()) else (s, .error (.unknownIOAddress addr))

-- ## The host operations as one transition (70_reset_and_hazards.md R242)

/-- The host operations with their arguments (00_scope.md R8). -/
inductive HostOp where
  | load (records : List Record) (labels : List (Text × Nat))
  | step
  | exec (rec : Record)
  | reset
  | setMode (m : Mode)
  | kbdPush (code : Nat) (pressed : Bool)
  | kbdPop
  | bpAdd (line : Int)
  | bpRemove (line : Int)
  | setRunning (b : Bool)
  | snapshot
  | regRead (name : Text)
  | memDump (bank : Bank) (start len : Nat)
  | lcdDump
  | kbdPeek
  | consoleRead
  | consoleClear
  | readIo (addr : Nat)
  | writeIo (addr : Nat) (v : Int)
  deriving DecidableEq, Repr

/-- What a host operation gives back. -/
inductive HostResult where
  | nothing
  | line (n : Int)
  | error (e : EngineFault)
  | event (code : Byte) (pressed : Bool)
  | noEvent
  | snapshot (t : Snapshot)
  | value (v : Word)
  | byte (b : Byte)
  | bytes (bs : List Byte)
  | lcd (w h : Nat) (pixels : List Byte)
  | keys (status code state : Byte)
  | text (t : Text)
  deriving DecidableEq, Repr

/-- The report of a STEP or EXEC as its result. -/
def reportResult : Report → HostResult
  | .nothing => .nothing
  | .returned n => .line n
  | .raised e => .error e

/-- A step's outcome with its result. -/
def withReport (o : Host.Outcome State Fault Refusal) : Host.Outcome (State × HostResult) Fault Refusal :=
  match o with
  | .next s => .next (s, reportResult s.report)
  | .fault f => .fault f
  | .refused r => .refused r

/-- An operation with a precondition (93_implementation_defined.md section 6). -/
def require (holds : Bool) (s : State) (result : HostResult) : Host.Outcome (State × HostResult) Fault Refusal :=
  if holds then .next (s, result) else .fault .hostPrecondition

/-- The result of READ_IO or WRITE_IO. -/
def ioResult {α : Type} (ok : α → HostResult) : Except EngineFault α → HostResult
  | .ok a => ok a
  | .error e => .error e

/-- One host operation, to completion (70_reset_and_hazards.md R242). An ill-formed configuration is refused
(00_scope.md R10). -/
def hostStep (op : HostOp) (s : State) : Host.Outcome (State × HostResult) Fault Refusal :=
  if !configOk s.cfg then .refused .badConfiguration
  else
    match op with
    | .load records labels => require ((labels.map Prod.fst).Nodup) (hostLoad s records labels) .nothing
    | .step => withReport (step s)
    | .exec rec => withReport (hostExec s rec)
    | .reset => .next (hostReset s, .nothing)
    | .setMode m => .next (hostSetMode s m, .nothing)
    | .kbdPush code pressed => require (code < 256) (hostKbdPush s (BitVec.ofNat 8 code) pressed) .nothing
    | .kbdPop =>
      match s.kq with
      | [] => .next (s, .noEvent)
      | (code, pressed) :: _ => .next (hostKbdPop s, .event code pressed)
    | .bpAdd line => .next (hostBpAdd s line, .nothing)
    | .bpRemove line => .next (hostBpRemove s line, .nothing)
    | .setRunning b => .next (hostSetRunning s b, .nothing)
    | .snapshot => .next (s, .snapshot (hostSnapshot s))
    | .regRead name =>
      match hostRegRead s name with
      | some v => .next (s, .value v)
      | none => .fault .hostPrecondition
    | .memDump bank start len =>
      require (start + len ≤ s.cfg.memSize) s (.bytes (bytesFrom (bankOf s bank) start len))
    | .lcdDump => .next (s, .lcd s.cfg.lcdW s.cfg.lcdH (bytesFrom s.pixels 0 (s.cfg.lcdW * s.cfg.lcdH)))
    | .kbdPeek => .next (s, .keys (keyStatus s) s.lastCode s.lastState)
    | .consoleRead => .next (s, .text s.console)
    | .consoleClear => .next (hostConsoleClear s, .nothing)
    | .readIo addr => .next ((hostReadIo s addr).1, ioResult .byte (hostReadIo s addr).2)
    | .writeIo addr v => .next ((hostWriteIo s addr v).1, ioResult (fun _ => .nothing) (hostWriteIo s addr v).2)

end Sys2Proof.Machine
end

