-- ==== Sys2Proof/WellFormed.lean ====
section
/-! DEFINITION. Which instructions the form table admits (30_encoding.md R81, R85 to R87), as checks on the
instruction alone. What depends on the state (the mode, an address in a device's range) is no part of it. -/

namespace Sys2Proof

/-- The operand resolved to one of the four kinds of 30_encoding.md R79. -/
def Operand.resolved : Operand → Bool
  | .malformed _ => false
  | .unshown _ => false
  | _ => true

/-- The label is a name without white space around it, as the decoder leaves it (30_encoding.md R80). -/
def labelTrimmed (name : Text) : Bool := trim name == name

/-- MOV (30_encoding.md R81, R85 (a)). -/
def movForm : List Operand → Bool
  | [.reg32 _, .reg32 _] | [.reg32 _, .reg8 _] | [.reg32 _, .imm _] | [.reg32 _, .mem _] => true
  | [.reg8 _, .reg32 _] | [.reg8 _, .reg8 _] => true
  | [.reg8 _, .imm v] => v ≤ 255
  | [.mem _, .reg32 _] | [.mem _, .imm _] | [.mem _, .mem _] => true
  | _ => false

/-- ADD, SUB, CMP, AND, OR, XOR, TEST (30_encoding.md R81, R85 (b), R86). -/
def binaryForm : List Operand → Bool
  | [.reg32 _, .reg32 _] | [.reg32 _, .imm _] | [.reg32 _, .mem _] => true
  | [.reg8 _, .reg8 _] => true
  | [.reg8 _, .imm v] => v ≤ 255
  | [.mem _, .reg32 _] | [.mem _, .imm _] => true
  | _ => false

/-- INC, DEC, NEG (30_encoding.md R81, R85 (c)). -/
def unaryForm : List Operand → Bool
  | [.reg32 _] | [.reg8 _] | [.mem _] => true
  | _ => false

/-- XADD: two registers, or any resolved operands after a first one that is ignored (30_encoding.md R87). -/
def xaddForm : List Operand → Bool
  | [.reg32 _, .reg32 _] => true
  | [.imm _, b] | [.mem _, b] => b.resolved
  | _ => false

/-- CMOVcc: a register or an ignored immediate, and a register or memory, or ignored memory and a register
(30_encoding.md R81, R85 to R87). -/
def cmovForm : List Operand → Bool
  | [.reg32 _, .reg32 _] | [.reg32 _, .mem _] => true
  | [.imm _, .reg32 _] | [.imm _, .mem _] => true
  | [.mem _, .reg32 _] => true
  | _ => false

/-- BSF, BSR. -/
def scanForm : List Operand → Bool
  | [.reg32 _, .reg32 _] | [.reg32 _, .mem _] => true
  | _ => false

/-- BSWAP. -/
def bswapForm : List Operand → Bool
  | [.reg32 _] => true
  | _ => false

/-- PUSH. -/
def pushForm : List Operand → Bool
  | [.reg32 _] | [.imm _] | [.mem _] => true
  | _ => false

/-- POP, MUL, IMUL, DIV, IDIV. -/
def regMemForm : List Operand → Bool
  | [.reg32 _] | [.mem _] => true
  | _ => false

/-- The shifts and rotates; the count may be an 8-bit register (30_encoding.md R85 (d), 44_shift_rotate.md R150). -/
def shiftForm : List Operand → Bool
  | [.reg32 _, .imm _] | [.reg32 _, .reg32 _] | [.reg32 _, .reg8 _] => true
  | [.mem _, .imm _] | [.mem _, .reg32 _] | [.mem _, .reg8 _] => true
  | _ => false

/-- INT. -/
def intForm : List Operand → Bool
  | [.imm _] => true
  | _ => false

/-- JMP, Jcc, CALL and the LOOP family: one label. -/
def labelForm : List Text → Bool
  | [name] => labelTrimmed name
  | _ => false

/-- The instruction has a form the table of 30_encoding.md R81 admits. -/
def Instr.wf : Instr → Bool
  | .mov ops => movForm ops
  | .cmovo ops | .cmovno ops | .cmovb ops | .cmovae ops | .cmove ops | .cmovz ops | .cmovne ops | .cmovnz ops | .cmovbe ops | .cmova ops | .cmovs ops | .cmovns ops | .cmovl ops | .cmovge ops | .cmovle ops | .cmovg ops => cmovForm ops
  | .push ops => pushForm ops
  | .pop ops => regMemForm ops
  | .lahf ops | .sahf ops => ops.isEmpty
  | .bswap ops => bswapForm ops
  | .add ops | .sub ops | .cmp ops => binaryForm ops
  | .inc ops | .dec ops | .neg ops => unaryForm ops
  | .xadd ops => xaddForm ops
  | .and ops | .or ops | .xor ops | .test ops => binaryForm ops
  | .bsf ops | .bsr ops => scanForm ops
  | .shl ops | .shr ops | .sar ops | .rol ops | .ror ops | .rcl ops | .rcr ops => shiftForm ops
  | .mul ops | .imul ops | .div ops | .idiv ops => regMemForm ops
  | .lods ops | .stos ops | .movs ops | .scas ops | .cmps ops => ops.isEmpty
  | .int ops => intForm ops
  | .int3 ops | .iret ops | .hlt ops => ops.isEmpty
  | .ret ops => ops.isEmpty
  | .jmp ops | .je ops | .jne ops | .jg ops | .jge ops | .jl ops | .jle ops | .js ops | .jns ops | .ja ops | .jae ops | .jb ops | .jbe ops | .call ops | .loop ops | .loope ops | .loopne ops | .loopz ops | .loopnz ops => labelForm ops

/-- Every operand resolved and every label is trimmed, whatever their number and kinds: the instructions that a
record can spell and that stop on no token. -/
def Instr.printable : Instr → Bool
  | .jmp ops | .je ops | .jne ops | .jg ops | .jge ops | .jl ops | .jle ops | .js ops | .jns ops | .ja ops | .jae ops | .jb ops | .jbe ops | .call ops | .ret ops | .loop ops | .loope ops | .loopne ops | .loopz ops | .loopnz ops => ops.all labelTrimmed
  | .mov ops | .cmovo ops | .cmovno ops | .cmovb ops | .cmovae ops | .cmove ops | .cmovz ops | .cmovne ops | .cmovnz ops | .cmovbe ops | .cmova ops | .cmovs ops | .cmovns ops | .cmovl ops | .cmovge ops | .cmovle ops | .cmovg ops | .push ops | .pop ops | .lahf ops | .sahf ops | .bswap ops | .add ops | .sub ops | .cmp ops | .inc ops | .dec ops | .neg ops | .xadd ops | .and ops | .or ops | .xor ops | .test ops | .bsf ops | .bsr ops | .shl ops | .shr ops | .sar ops | .rol ops | .ror ops | .rcl ops | .rcr ops | .mul ops | .imul ops | .div ops | .idiv ops | .lods ops | .stos ops | .movs ops | .scas ops | .cmps ops | .int ops | .int3 ops | .iret ops | .hlt ops => ops.all Operand.resolved

end Sys2Proof
end

