-- ==== Sys2Proof/Safety.lean ====
section
/-! DEFINITION. The terms in which statements about the machine are made: the invariant that every step keeps, what two
states have in common, what storing a value means, which registers, flags and addresses an instruction may touch, and
the verdict of the checks of 60_exceptions.md R219. -/

namespace Sys2Proof

-- ## The instruction's parts

/-- The operand is an 8-bit register. -/
def Operand.isReg8 : Operand → Bool
  | .reg8 _ => true
  | _ => false

/-- The operand is a memory operand. -/
def Operand.isMem : Operand → Bool
  | .mem _ => true
  | _ => false

/-- The operands of an instruction that has resolved operands. -/
def Instr.operands : Instr → List Operand
  | .mov ops | .cmovo ops | .cmovno ops | .cmovb ops | .cmovae ops | .cmove ops | .cmovz ops | .cmovne ops
  | .cmovnz ops | .cmovbe ops | .cmova ops | .cmovs ops | .cmovns ops | .cmovl ops | .cmovge ops | .cmovle ops
  | .cmovg ops | .push ops | .pop ops | .lahf ops | .sahf ops | .bswap ops | .add ops | .sub ops | .cmp ops
  | .inc ops | .dec ops | .neg ops | .xadd ops | .and ops | .or ops | .xor ops | .test ops | .bsf ops | .bsr ops
  | .shl ops | .shr ops | .sar ops | .rol ops | .ror ops | .rcl ops | .rcr ops | .mul ops | .imul ops | .div ops
  | .idiv ops | .lods ops | .stos ops | .movs ops | .scas ops | .cmps ops | .int ops | .int3 ops | .iret ops
  | .hlt ops => ops
  | .jmp _ | .je _ | .jne _ | .jg _ | .jge _ | .jl _ | .jle _ | .js _ | .jns _ | .ja _ | .jae _ | .jb _ | .jbe _
  | .call _ | .ret _ | .loop _ | .loope _ | .loopne _ | .loopz _ | .loopnz _ => []

/-- The label names of a control-flow instruction. -/
def Instr.targets : Instr → List Text
  | .mov _ | .cmovo _ | .cmovno _ | .cmovb _ | .cmovae _ | .cmove _ | .cmovz _ | .cmovne _ | .cmovnz _ | .cmovbe _
  | .cmova _ | .cmovs _ | .cmovns _ | .cmovl _ | .cmovge _ | .cmovle _ | .cmovg _ | .push _ | .pop _ | .lahf _
  | .sahf _ | .bswap _ | .add _ | .sub _ | .cmp _ | .inc _ | .dec _ | .neg _ | .xadd _ | .and _ | .or _ | .xor _
  | .test _ | .bsf _ | .bsr _ | .shl _ | .shr _ | .sar _ | .rol _ | .ror _ | .rcl _ | .rcr _ | .mul _ | .imul _
  | .div _ | .idiv _ | .lods _ | .stos _ | .movs _ | .scas _ | .cmps _ | .int _ | .int3 _ | .iret _ | .hlt _ => []
  | .jmp ops | .je ops | .jne ops | .jg ops | .jge ops | .jl ops | .jle ops | .js ops | .jns ops | .ja ops
  | .jae ops | .jb ops | .jbe ops | .call ops | .ret ops | .loop ops | .loope ops | .loopne ops | .loopz ops
  | .loopnz ops => ops

/-- The stepper owns the instruction's effect on pc (48_control_flow.md R178). -/
def Instr.isControl (i : Instr) : Bool := controlMnemonics.contains i.mnemonic

/-- How many operands the instruction has. -/
def Instr.arity (i : Instr) : Nat := if i.isControl then i.targets.length else i.operands.length

namespace Machine

-- ## The invariant

/-- Every reserved bit of F is 0 (10_state.md R26). -/
abbrev reservedClear (f : Word) : Prop := f &&& ~~~(0x8C1 : Word) = 0

/-- What every reachable state satisfies: a well-formed configuration (00_scope.md R10), byte arrays in canonical form
and within their sizes (10_state.md R34, R35), reserved flag bits 0 (R26), `halted` and `faulted` never both true
(R29), `lastState` 0 or 1 (R36), unique label names (R39), and breakpoints in rising order (log entry 20). -/
abbrev Invariant (s : State) : Prop :=
  configOk s.cfg = true ∧
  (s.bankA.wf ∧ s.bankA.below s.cfg.memSize) ∧
  (s.bankB.wf ∧ s.bankB.below s.cfg.memSize) ∧
  (s.pixels.wf ∧ s.pixels.below (s.cfg.lcdW * s.cfg.lcdH)) ∧
  reservedClear s.flags ∧
  (s.halted && s.faulted) = false ∧
  (s.lastState = 0 ∨ s.lastState = 1) ∧
  (s.labels.map Prod.fst).Nodup ∧
  s.bps.Pairwise (· < ·)

-- ## What two states have in common

/-- Every register but those listed holds what it held. -/
def RegsBut (rs : List Reg32) (s t : State) : Prop := ∀ r, r ∉ rs → getReg t r = getReg s r

/-- Every byte of the data address space and every pixel reads as before. -/
structure SameMemory (s t : State) : Prop where
  bytes : ∀ a, bankByte t a = bankByte s a
  pixels : ∀ i, t.pixels.read i = s.pixels.read i

/-- The keyboard device is as before. -/
structure SameKeyboard (s t : State) : Prop where
  kq : t.kq = s.kq
  lastCode : t.lastCode = s.lastCode
  lastState : t.lastState = s.lastState

/-- Everything but pc, registers, flags, memory, devices and the draw counter is as before. -/
structure SameControl (s t : State) : Prop where
  cfg : t.cfg = s.cfg
  cs : t.cs = s.cs
  halted : t.halted = s.halted
  faulted : t.faulted = s.faulted
  running : t.running = s.running
  mode : t.mode = s.mode
  bankB : t.bankB = s.bankB
  console : t.console = s.console
  bps : t.bps = s.bps
  prog : t.prog = s.prog
  labels : t.labels = s.labels
  report : t.report = s.report

/-- The instruction fell through to the next index and touched no control state (48_control_flow.md R181). -/
structure FellThrough (s t : State) : Prop where
  pc : t.pc = s.pc + 1
  control : SameControl s t

-- ## Flags

/-- What a rule says about one flag (10_state.md R27): kept, a given value, or nothing. -/
inductive FlagRule where
  | kept
  | is (b : Bool)
  | free
  deriving DecidableEq, Repr

/-- A flag that was `old` and is now `new` obeys the rule. -/
def FlagRule.allows (old new : Bool) : FlagRule → Prop
  | .kept => new = old
  | .is b => new = b
  | .free => True

/-- The rules of the four flags. -/
structure FlagRules where
  cf : FlagRule := .kept
  zf : FlagRule := .kept
  sf : FlagRule := .kept
  of : FlagRule := .kept
  deriving DecidableEq, Repr

/-- The bitset `new` obeys the rules, and its other bits are those of `old` (40_flag_module.md R95). -/
structure FlagsObey (rules : FlagRules) (old new : Word) : Prop where
  cf : rules.cf.allows (cf old) (cf new)
  zf : rules.zf.allows (zf old) (zf new)
  sf : rules.sf.allows (sf old) (sf new)
  of : rules.of.allows (of old) (of new)
  rest : ∀ i, i ∉ [0, 6, 7, 11] → new.getLsbD i = old.getLsbD i

/-- "ZF, SF from r" (40_flag_module.md R95). -/
def zeroOf (r : Word) : FlagRule := .is (r.toNat == 0)

/-- "ZF, SF from r" (40_flag_module.md R95). -/
def signOf (r : Word) : FlagRule := .is (r.getLsbD 31)

-- ## Storing

/-- A value of `n` bytes is stored at an address of the data address space (20_memory.md R50, R54): a pixel, nothing for
a keyboard register, or bytes of bank A from the address up, the low byte first; nothing else changes. -/
def StoredAt (s : State) (a : Word) (n : Nat) (v : Word) (t : State) : Prop :=
  match classify s.cfg a.toNat with
  | .lcd =>
    t.pixels.read (a.toNat - s.cfg.lcdBase) = v.setWidth 8 ∧
    (∀ i, i ≠ a.toNat - s.cfg.lcdBase → t.pixels.read i = s.pixels.read i) ∧
    ∀ x, bankByte t x = bankByte s x
  | .kbd => SameMemory s t
  | .ram | .out =>
    (∀ i, i < n → bankByte t (a.toNat + i) = v.extractLsb' (8 * i) 8) ∧
    (∀ x, x < a.toNat ∨ a.toNat + n ≤ x → bankByte t x = bankByte s x) ∧
    ∀ i, t.pixels.read i = s.pixels.read i

/-- A value is stored in an operand (30_encoding.md R83), and no other register or byte changes. -/
def Stored (s : State) (op : Operand) (v : Word) (t : State) : Prop :=
  match op with
  | .reg32 r => getReg t r = v ∧ RegsBut [r] s t ∧ SameMemory s t
  | .reg8 r =>
    getReg8 t r = v.setWidth 8 ∧
    (∀ i, i < reg8Offset r ∨ reg8Offset r + 8 ≤ i →
      (getReg t (reg8Parent r)).getLsbD i = (getReg s (reg8Parent r)).getLsbD i) ∧
    RegsBut [reg8Parent r] s t ∧ SameMemory s t
  | .mem m => RegsBut [] s t ∧ StoredAt s (ea s m) 4 v t
  | .imm _ | .malformed _ | .unshown _ => RegsBut [] s t ∧ SameMemory s t

/-- The state after a two-operand instruction has read its source and then its destination (30_encoding.md R94). -/
def afterReads (s : State) (dst src : Operand) : State := touch (touch s src) dst

-- ## Groups of instructions

/-- The sixteen CMOVcc with their conditions (41_data_movement.md R116 to R131). -/
def cmovs : List (Cond × (List Operand → Instr)) :=
  [(.o, .cmovo), (.no, .cmovno), (.b, .cmovb), (.ae, .cmovae), (.e, .cmove), (.z, .cmovz), (.ne, .cmovne),
   (.nz, .cmovnz), (.be, .cmovbe), (.a, .cmova), (.s, .cmovs), (.ns, .cmovns), (.l, .cmovl), (.ge, .cmovge),
   (.le, .cmovle), (.g, .cmovg)]

/-- The twelve Jcc with their conditions (48_control_flow.md R186 to R197). -/
def jumps : List (Cond × (List Text → Instr)) :=
  [(.e, .je), (.ne, .jne), (.g, .jg), (.ge, .jge), (.l, .jl), (.le, .jle), (.s, .js), (.ns, .jns), (.a, .ja),
   (.ae, .jae), (.b, .jb), (.be, .jbe)]

/-- The seven shifts and rotates. -/
def shifts : List (List Operand → Instr) := [.shl, .shr, .sar, .rol, .ror, .rcl, .rcr]

/-- The instruction with one label: JMP, the Jcc, CALL and the LOOP family (30_encoding.md R80). -/
def labelled : List (List Text → Instr) :=
  [.jmp, .je, .jne, .jg, .jge, .jl, .jle, .js, .jns, .ja, .jae, .jb, .jbe, .call, .loop, .loope, .loopne, .loopz,
   .loopnz]

-- ## What an instruction may touch

/-- The register that an operand names as a destination. -/
def destReg : Operand → List Reg32
  | .reg32 r => [r]
  | .reg8 r => [reg8Parent r]
  | _ => []

/-- The registers an instruction may write (the instruction rules of files 41 to 48). -/
def writtenRegs (i : Instr) : List Reg32 :=
  match i.mnemonic with
  | .push => [.esp]
  | .pop => .esp :: (i.operands.take 1).flatMap destReg
  | .lahf => [.eax]
  | .sahf | .cmp | .test | .int | .int3 | .iret | .hlt => []
  | .xadd => i.operands.flatMap destReg
  | .mul | .imul | .div | .idiv => [.eax, .edx]
  | .lods => [.eax, .esi]
  | .stos | .scas => [.edi]
  | .movs | .cmps => [.esi, .edi]
  | .loop | .loope | .loopne | .loopz | .loopnz => [.ecx]
  | _ => (i.operands.take 1).flatMap destReg

/-- The raw count of a shift or rotate (40_flag_module.md R102). -/
def rawCount (s : State) (count : Operand) : Nat := (peek s count).toNat

/-- The masked count of a shift or rotate (40_flag_module.md R102). -/
def maskedCount (s : State) (count : Operand) : Nat := rawCount s count % 32

/-- The flags an instruction may write, and those it must keep or clear (10_state.md R27). A flag written from a result
is free here. -/
def flagFrame (i : Instr) (s : State) : FlagRules :=
  let written : FlagRules := ⟨.free, .free, .free, .free⟩
  match i.mnemonic with
  | .add | .sub | .cmp | .neg | .xadd => written
  | .inc | .dec => ⟨.kept, .free, .free, .free⟩
  | .and | .or | .xor | .test => ⟨.is false, .free, .free, .is false⟩
  | .shl | .shr | .sar =>
    match i.operands with
    | [_, count] => if maskedCount s count = 0 then {} else written
    | _ => {}
  | .rol | .ror | .rcl | .rcr =>
    match i.operands with
    | [_, count] =>
      if maskedCount s count = 0 then {}
      else if s.mode = .teaching then written
      else ⟨.free, .kept, .kept, .free⟩
    | _ => {}
  | .mul | .imul => if s.mode = .teaching then written else ⟨.free, .is false, .is false, .free⟩
  | .div | .idiv =>
    if s.mode = .teaching then ⟨.kept, .free, .free, .kept⟩ else ⟨.is false, .kept, .kept, .is false⟩
  | .bsf | .bsr => ⟨.kept, .free, .kept, .kept⟩
  | .sahf => ⟨.free, .free, .free, .kept⟩
  | .scas | .cmps => written
  | _ => {}

/-- The address of a memory operand with the width of its access. -/
def access (s : State) : Operand → List (Word × Nat)
  | .mem m => [(ea s m, 4)]
  | _ => []

/-- The source of two operands is read. -/
def sourceLoad (s : State) : List Operand → List (Word × Nat)
  | [_, src] => access s src
  | _ => []

/-- The source of two operands is read, then the destination. -/
def bothLoads (s : State) : List Operand → List (Word × Nat)
  | [dst, src] => access s src ++ access s dst
  | _ => []

/-- The one operand is read. -/
def onlyLoad (s : State) : List Operand → List (Word × Nat)
  | [op] => access s op
  | _ => []

/-- The destination of a shift or rotate is read, if the masked count is not 0. -/
def shiftLoad (s : State) : List Operand → List (Word × Nat)
  | [dst, count] => if maskedCount s count = 0 then [] else access s dst
  | _ => []

/-- The source of a CMOVcc is read, if the condition holds. -/
def cmovLoad (s : State) (c : Cond) : List Operand → List (Word × Nat)
  | [.reg32 _, src] => if holds c s.flags then access s src else []
  | _ => []

/-- The accesses, of an instruction without operands. -/
def bareLoads (accesses : List (Word × Nat)) : List Operand → List (Word × Nat)
  | [] => accesses
  | _ => []

/-- The stack is read. -/
def stackLoad (s : State) : List Operand → List (Word × Nat)
  | [_] => [(getReg s .esp, 4)]
  | _ => []

/-- The accesses of the data address space that an instruction makes to read, in order: address and width
(20_memory.md R58). -/
def loads (i : Instr) (s : State) : List (Word × Nat) :=
  match i with
  | .mov ops => sourceLoad s ops
  | .cmovo ops => cmovLoad s .o ops
  | .cmovno ops => cmovLoad s .no ops
  | .cmovb ops => cmovLoad s .b ops
  | .cmovae ops => cmovLoad s .ae ops
  | .cmove ops => cmovLoad s .e ops
  | .cmovz ops => cmovLoad s .z ops
  | .cmovne ops => cmovLoad s .ne ops
  | .cmovnz ops => cmovLoad s .nz ops
  | .cmovbe ops => cmovLoad s .be ops
  | .cmova ops => cmovLoad s .a ops
  | .cmovs ops => cmovLoad s .s ops
  | .cmovns ops => cmovLoad s .ns ops
  | .cmovl ops => cmovLoad s .l ops
  | .cmovge ops => cmovLoad s .ge ops
  | .cmovle ops => cmovLoad s .le ops
  | .cmovg ops => cmovLoad s .g ops
  | .push ops => onlyLoad s ops
  | .pop ops => stackLoad s ops
  | .add ops | .sub ops | .cmp ops | .and ops | .or ops | .xor ops | .test ops => bothLoads s ops
  | .inc ops | .dec ops | .neg ops => onlyLoad s ops
  | .bsf ops | .bsr ops => sourceLoad s ops
  | .shl ops | .shr ops | .sar ops | .rol ops | .ror ops | .rcl ops | .rcr ops => shiftLoad s ops
  | .mul ops | .imul ops | .div ops | .idiv ops => onlyLoad s ops
  | .lods ops | .movs ops => bareLoads [(getReg s .esi, 1)] ops
  | .scas ops => bareLoads [(getReg s .edi, 1)] ops
  | .cmps ops => bareLoads [(getReg s .esi, 1), (getReg s .edi, 1)] ops
  | .lahf _ | .sahf _ | .bswap _ | .xadd _ | .stos _ | .int _ | .int3 _ | .iret _ | .hlt _ => []
  | .jmp _ | .je _ | .jne _ | .jg _ | .jge _ | .jl _ | .jle _ | .js _ | .jns _ | .ja _ | .jae _ | .jb _ | .jbe _
  | .call _ | .ret _ | .loop _ | .loope _ | .loopne _ | .loopz _ | .loopnz _ => []

/-- The destination of two operands is written. -/
def destStore (s : State) : List Operand → Option (Word × Nat)
  | [.mem m, _] => some (ea s m, 4)
  | _ => none

/-- The one operand is written. -/
def onlyStore (s : State) : List Operand → Option (Word × Nat)
  | [.mem m] => some (ea s m, 4)
  | _ => none

/-- The destination of a shift or rotate is written, if the masked count is not 0. -/
def shiftStore (s : State) : List Operand → Option (Word × Nat)
  | [.mem m, count] => if maskedCount s count = 0 then none else some (ea s m, 4)
  | _ => none

/-- The stack is written, below ESP. -/
def pushStore (s : State) : List Operand → Option (Word × Nat)
  | [_] => some (getReg s .esp - 4, 4)
  | _ => none

/-- The destination of POP is written; its address is computed after ESP is incremented (41_data_movement.md R133). -/
def popStore (s : State) : List Operand → Option (Word × Nat)
  | [.mem m] => some (ea (setReg s .esp (getReg s .esp + 4)) m, 4)
  | _ => none

/-- The byte at EDI is written, by an instruction without operands. -/
def byteStore (s : State) : List Operand → Option (Word × Nat)
  | [] => some (getReg s .edi, 1)
  | _ => none

/-- The access of the data address space that an instruction makes to write: address and width (20_memory.md R58). -/
def stores (i : Instr) (s : State) : Option (Word × Nat) :=
  match i with
  | .mov ops | .add ops | .sub ops | .and ops | .or ops | .xor ops => destStore s ops
  | .inc ops | .dec ops | .neg ops => onlyStore s ops
  | .shl ops | .shr ops | .sar ops | .rol ops | .ror ops | .rcl ops | .rcr ops => shiftStore s ops
  | .push ops => pushStore s ops
  | .pop ops => popStore s ops
  | .stos ops | .movs ops => byteStore s ops
  | .cmovo _ | .cmovno _ | .cmovb _ | .cmovae _ | .cmove _ | .cmovz _ | .cmovne _ | .cmovnz _ | .cmovbe _
  | .cmova _ | .cmovs _ | .cmovns _ | .cmovl _ | .cmovge _ | .cmovle _ | .cmovg _ => none
  | .lahf _ | .sahf _ | .bswap _ | .cmp _ | .xadd _ | .test _ | .bsf _ | .bsr _ | .mul _ | .imul _ | .div _
  | .idiv _ | .lods _ | .scas _ | .cmps _ | .int _ | .int3 _ | .iret _ | .hlt _ => none
  | .jmp _ | .je _ | .jne _ | .jg _ | .jge _ | .jl _ | .jle _ | .js _ | .jns _ | .ja _ | .jae _ | .jb _ | .jbe _
  | .call _ | .ret _ | .loop _ | .loope _ | .loopne _ | .loopz _ | .loopnz _ => none

-- ## The results of the shared frames

/-- The flags of an addition `r` of `d` and `v` (40_flag_module.md R97). -/
def addRules (d v r : Word) : FlagRules where
  cf := .is (decide (r.toNat < d.toNat))
  zf := zeroOf r
  sf := signOf r
  of := .is (d.getLsbD 31 == v.getLsbD 31 && r.getLsbD 31 != d.getLsbD 31)

/-- The flags of a subtraction `r` of `v` from `d` (40_flag_module.md R98). -/
def subRules (d v r : Word) : FlagRules where
  cf := .is (decide (d.toNat < v.toNat))
  zf := zeroOf r
  sf := signOf r
  of := .is (d.getLsbD 31 != v.getLsbD 31 && r.getLsbD 31 != d.getLsbD 31)

/-- The flags of a logical result (40_flag_module.md R96). -/
def logicRules (r : Word) : FlagRules where
  cf := .is false
  zf := zeroOf r
  sf := signOf r
  of := .is false

/-- A 32-bit two-operand instruction, for every admitted form without an 8-bit operand whose accesses complete: the
source is read, then the destination, the result `f` of destination and source is stored, and the flags obey `rules` of
destination, source and result; nothing else changes. -/
def WideResult (mk : List Operand → Instr) (f : Word → Word → Word) (rules : Word → Word → Word → FlagRules) : Prop :=
  ∀ (s : State) (dst src : Operand), Invariant s → (mk [dst, src]).wf = true → dst.isReg8 = false →
    readOk s src = true → readOk s dst = true → writeOk s dst = true →
    let v := peek s src
    let d := peek (touch s src) dst
    ∃ t, exec (mk [dst, src]) s = .next t ∧ Stored (afterReads s dst src) dst (f d v) t ∧
      FlagsObey (rules d v (f d v)) s.flags t.flags ∧ SameKeyboard (afterReads s dst src) t ∧ FellThrough s t

/-- As `WideResult`, of an instruction that stores nothing. -/
def WideCompare (mk : List Operand → Instr) (f : Word → Word → Word) (rules : Word → Word → Word → FlagRules) :
    Prop :=
  ∀ (s : State) (dst src : Operand), Invariant s → (mk [dst, src]).wf = true → dst.isReg8 = false →
    readOk s src = true → readOk s dst = true →
    let v := peek s src
    let d := peek (touch s src) dst
    ∃ t, exec (mk [dst, src]) s = .next t ∧ RegsBut [] s t ∧ SameMemory s t ∧
      FlagsObey (rules d v (f d v)) s.flags t.flags ∧ SameKeyboard (afterReads s dst src) t ∧ FellThrough s t

/-- A 32-bit one-operand instruction that replaces its operand. -/
def WideUnary (mk : List Operand → Instr) (f : Word → Word) (rules : Word → Word → FlagRules) : Prop :=
  ∀ (s : State) (dst : Operand), Invariant s → (mk [dst]).wf = true → dst.isReg8 = false →
    readOk s dst = true → writeOk s dst = true →
    let d := peek s dst
    ∃ t, exec (mk [dst]) s = .next t ∧ Stored (touch s dst) dst (f d) t ∧
      FlagsObey (rules d (f d)) s.flags t.flags ∧ SameKeyboard (touch s dst) t ∧ FellThrough s t

/-- The byte that the source of an 8-bit form gives. -/
def sourceByte (s : State) (src : Operand) : Byte := (peek s src).setWidth 8

/-- An 8-bit two-operand instruction: the result `f` of the destination and source bytes is written to the destination
alone, or nothing is where `f` gives nothing, and the flags obey `rules` of the two bytes and the result
(40_flag_module.md R111). -/
def ByteResult (mk : List Operand → Instr) (writes : Bool) (f : Byte → Byte → Byte)
    (rules : Byte → Byte → Byte → FlagRules) : Prop :=
  ∀ (s : State) (r : Reg8) (src : Operand), (mk [.reg8 r, src]).wf = true →
    let a := getReg8 s r
    let b := sourceByte s src
    ∃ t, exec (mk [.reg8 r, src]) s = .next t ∧
      Stored s (.reg8 r) (if writes then (f a b).setWidth 32 else a.setWidth 32) t ∧
      FlagsObey (rules a b (f a b)) s.flags t.flags ∧ SameKeyboard s t ∧ FellThrough s t

/-- An 8-bit one-operand instruction (40_flag_module.md R111). -/
def ByteUnary (mk : List Operand → Instr) (f : Byte → Byte) (rules : Byte → FlagRules) : Prop :=
  ∀ (s : State) (r : Reg8),
    let a := getReg8 s r
    ∃ t, exec (mk [.reg8 r]) s = .next t ∧ Stored s (.reg8 r) ((f a).setWidth 32) t ∧
      FlagsObey (rules a) s.flags t.flags ∧ SameKeyboard s t ∧ FellThrough s t

/-- A shift or rotate with a masked count that is not 0: its result and its flags, of the state, the destination's
value, the raw count and the masked count (44_shift_rotate.md R150). -/
def ShiftResult (mk : List Operand → Instr) (f : State → Word → Nat → Word)
    (rules : State → Word → Nat → Nat → Word → FlagRules) : Prop :=
  ∀ (s : State) (dst count : Operand), Invariant s → (mk [dst, count]).wf = true → maskedCount s count ≠ 0 →
    readOk s dst = true → writeOk s dst = true →
    let d := peek s dst
    let n := rawCount s count
    let c := maskedCount s count
    ∃ t, exec (mk [dst, count]) s = .next t ∧ Stored (touch s dst) dst (f s d c) t ∧
      FlagsObey (rules s d n c (f s d c)) s.flags t.flags ∧ SameKeyboard (touch s dst) t ∧ FellThrough s t

/-- ZF and SF after a rotate, by mode (40_flag_module.md R108). -/
def rotateRules (s : State) (carry overflow : Bool) (r : Word) : FlagRules :=
  match s.mode with
  | .teaching => ⟨.is carry, zeroOf r, signOf r, .is overflow⟩
  | .strict => ⟨.is carry, .kept, .kept, .is overflow⟩

-- ## The verdict of the checks (60_exceptions.md R219)

/-- How an instruction ends. -/
inductive Verdict where
  | completes
  | raises (e : EngineFault)
  | refuses (r : Refusal)
  deriving DecidableEq, Repr

/-- The declared operand count of a mnemonic (30_encoding.md R81). -/
def declaredCount : Mnemonic → Nat
  | .lahf | .sahf | .lods | .stos | .movs | .scas | .cmps | .int3 | .iret | .hlt | .ret => 0
  | .push | .pop | .bswap | .inc | .dec | .neg | .mul | .imul | .div | .idiv | .int => 1
  | .jmp | .je | .jne | .jg | .jge | .jl | .jle | .js | .jns | .ja | .jae | .jb | .jbe | .call => 1
  | .loop | .loope | .loopne | .loopz | .loopnz => 1
  | _ => 2

/-- The check of the operand count (30_encoding.md R88, R89). -/
def countVerdict (i : Instr) (s : State) : Option Verdict :=
  if i.arity = declaredCount i.mnemonic then none
  else if countRefused i.mnemonic i.arity then some (.refuses .formNotAdmitted)
  else
    match s.cfg.countPolicy with
    | .noop => some .completes
    | .fault => some (.raises (.badOperandCount i.mnemonic))

/-- The check of the tokens: the first that failed, from left to right (30_encoding.md R77). -/
def tokenVerdict : List Operand → Option Verdict
  | [] => none
  | .malformed tok :: _ => some (.raises (.parseError tok))
  | .unshown _ :: _ => some (.refuses .literalFormNotShown)
  | _ :: rest => tokenVerdict rest

/-- The form of an instruction with its declared operand count (30_encoding.md R81, R85 to R87). -/
def formOf (i : Instr) (s : State) : Form :=
  match i.operands with
  | [dst, src] =>
    match i.mnemonic with
    | .mov => formMov dst src
    | .add | .sub | .cmp | .and | .or | .xor | .test => formBinary dst src
    | .xadd => formXadd dst src
    | .bsf | .bsr => formScan dst src
    | .shl | .shr | .sar | .rol | .ror | .rcl | .rcr => formShift dst src
    | _ => formCmov s dst src
  | [op] =>
    match i.mnemonic with
    | .inc | .dec | .neg => formUnary op
    | .bswap => formBswap op
    | .push => formPush op
    | .int => formInt op
    | _ => formRegMem op
  | _ => .wide

/-- The check of the form. -/
def formVerdict (i : Instr) (s : State) : Option Verdict :=
  match formOf i s with
  | .wide => none
  | .narrow => none
  | .noop => some .completes
  | .reject r => some (.refuses r)

/-- The check of the mode (41_data_movement.md R114). -/
def modeVerdict (i : Instr) (s : State) : Option Verdict :=
  match i with
  | .mov [.mem _, .mem _] => if s.mode = .strict then some (.raises .modePolicyError) else none
  | _ => none

/-- The check of a zero count on a device (44_shift_rotate.md R150). -/
def zeroCountVerdict (i : Instr) (s : State) : Option Verdict :=
  match i.operands with
  | [.mem m, count] =>
    if shiftMnemonics.contains i.mnemonic && maskedCount s count == 0 && isMmio s.cfg (ea s m).toNat
    then some (.refuses .zeroCountMmio) else none
  | _ => none

/-- The check of the reads (20_memory.md R54). -/
def loadVerdict (i : Instr) (s : State) : Option Verdict :=
  if (loads i s).any (fun p => mixedMmio s.cfg p.1.toNat p.2) then some (.refuses .mixedMmioAccess) else none

/-- The checks of the dividend (45_multiply_divide.md R161 to R163). -/
def divideVerdict (i : Instr) (s : State) : Option Verdict :=
  match i with
  | .div [src] =>
    if peek s src ≠ 0 ∧ getReg s .edx ≠ 0 then some (.refuses .divideDividendUnknown) else none
  | .idiv [src] =>
    if peek s src = 0 then none
    else if getReg s .edx ≠ signWord (getReg s .eax) then some (.refuses .divideDividendUnknown)
    else if getReg s .eax = 0x80000000 ∧ peek s src = 0xFFFFFFFF then some (.refuses .divideOverflow)
    else none
  | _ => none

/-- The checks of the write (20_memory.md R54, R56). -/
def storeVerdict (i : Instr) (s : State) : Option Verdict :=
  match stores i s with
  | none => none
  | some (a, n) =>
    if isMmio s.cfg a.toNat then none
    else if touchesMmio s.cfg a.toNat n then some (.refuses .mixedMmioAccess)
    else if a.toNat + n ≤ s.cfg.memSize then none
    else some (.raises (.memoryOutOfRange (max a.toNat s.cfg.memSize)))

/-- The check of the label (48_control_flow.md R183). -/
def labelVerdict (i : Instr) (s : State) : Option Verdict :=
  match i.targets with
  | [name] =>
    match s.labels.lookup name with
    | some _ => none
    | none => some (.raises (.controlFlowFault i.mnemonic name))
  | _ => none

/-- The checks in their order: the first that fails decides (60_exceptions.md R219). -/
def verdict (i : Instr) (s : State) : Verdict :=
  ([countVerdict i s, tokenVerdict i.operands, formVerdict i s, modeVerdict i s, zeroCountVerdict i s,
    loadVerdict i s, divideVerdict i s, storeVerdict i s, labelVerdict i s].findSome? id).getD .completes

end Machine

end Sys2Proof
end

