-- ==== Sys2Proof/Certificates/Slice0/Obligations.lean ====
section
/-! DEFINITION. The statements for the provers, from the spec's numbered rules: the encoding, the shared primitives, the
step, what the whole machine keeps, what each instruction does, and the host operations. -/

open Sys2Proof Sys2Proof.Machine

-- ## The encoding

/-- Decoding the record of an instruction gives the instruction back, whatever its operands (30_encoding.md R69 to R80);
and every instruction of an admitted form is one of those. The texts of the encoder's tokens are the model's choice
(log entry 4). -/
def Obligations.EncodeThenDecode : Prop :=
  (∀ i : Instr, i.printable = true → decode (encode i) = .ok i) ∧ ∀ i : Instr, i.wf = true → i.printable = true

/-- Words written out from the spec's records (30_encoding.md R92), a character a byte (log entry 4), decode to the
instructions they stand for: `MOV EAX,EBX`, `ADD AL,5`, `AND [EBX+4],EAX`, `SHL EDX,CL`, `IDIV ESI`, `LODS`, `INT 0x21`,
`JE t` and `cmovle ecx,[esi]`. -/
def Obligations.DecodedWords : Prop :=
  decodeTableWord 88 0x5842452c58414520564f4d = some (.mov [.reg32 .eax, .reg32 .ebx]) ∧
  decodeTableWord 64 0x352c4c4120444441 = some (.add [.reg8 .al, .imm 5]) ∧
  decodeTableWord 120 0x5841452c5d342b5842455b20444e41 =
    some (.and [.mem (.regPlus .ebx 4), .reg32 .eax]) ∧
  decodeTableWord 80 0x4c432c584445204c4853 = some (.shl [.reg32 .edx, .reg8 .cl]) ∧
  decodeTableWord 64 0x4953452056494449 = some (.idiv [.reg32 .esi]) ∧
  decodeTableWord 32 0x53444f4c = some (.lods []) ∧
  decodeTableWord 64 0x3132783020544e49 = some (.int [.imm 0x21]) ∧
  decodeTableWord 32 0x7420454a = some (.je ["t".toList]) ∧
  decodeTableWord 128 0x5d6973655b2c78636520656c766f6d63 = some (.cmovle [.reg32 .ecx, .mem (.reg .esi)])

/-- The mnemonic alone selects the instruction, without regard to case, and the names of the opcode table are the only
ones: a record with any other mnemonic makes the step refuse (30_encoding.md R70). Upper case is that of log entry 13. -/
def Obligations.MnemonicSelectsInstruction : Prop :=
  (∀ (rec : Record) (m : Mnemonic), upper rec.mnemonic = m.name →
    ∃ i, decode rec = .ok i ∧ i.mnemonic = m) ∧
  (∀ (rec : Record) (i : Instr), decode rec = .ok i → upper rec.mnemonic = i.mnemonic.name) ∧
  ∀ (s : State) (rec : Record), configOk s.cfg = true → s.faulted = false → s.halted = false → fetch s = some rec →
    (∀ m : Mnemonic, upper rec.mnemonic ≠ m.name) → step s = .refused .mnemonicNotAdmitted

/-- White space around a token is of no account, register names mean their registers without regard to case, and a
character literal is the code point of its character (30_encoding.md R72 to R74). The white-space set and the case
mapping are the model's choice (log entries 12 and 13). -/
def Obligations.TokensOfNamesAndCharacters : Prop :=
  (∀ before token after : Text, (∀ c ∈ before, isSpace c = true) → (∀ c ∈ after, isSpace c = true) →
    resolve (before ++ token ++ after) = resolve token) ∧
  (∀ (token : Text) (r : Reg32), upper token = r.name → resolve token = .reg32 r) ∧
  (∀ (token : Text) (r : Reg8), upper token = r.name → resolve token = .reg8 r) ∧
  ∀ c : Char, resolve ['\'', c, '\''] = .imm (BitVec.ofNat 32 c.toNat)

/-- Decimal, signed decimal, hexadecimal and binary literals resolve to their values modulo 2^32; the upper-case
prefixes are refused (30_encoding.md R75). -/
def Obligations.ImmediateTokens : Prop :=
  (∀ n : Nat,
    resolve (Nat.toDigits 10 n) = .imm (BitVec.ofNat 32 n) ∧
    resolve ('-' :: Nat.toDigits 10 n) = .imm (BitVec.ofInt 32 (-n)) ∧
    resolve ('0' :: 'x' :: Nat.toDigits 16 n) = .imm (BitVec.ofNat 32 n) ∧
    resolve ('0' :: 'b' :: Nat.toDigits 2 n) = .imm (BitVec.ofNat 32 n)) ∧
  ∀ rest : Text, (∀ c ∈ rest, isSpace c = false) →
    resolve ('0' :: 'X' :: rest) = .unshown ('0' :: 'X' :: rest) ∧
    resolve ('0' :: 'B' :: rest) = .unshown ('0' :: 'B' :: rest)

/-- The effective address of each shape of memory operand, modulo 2^32, from the register values of the moment; an 8-bit
register name in brackets is a parse error (30_encoding.md R76). -/
def Obligations.EffectiveAddresses : Prop :=
  (∀ (s : State) (r r2 : Reg32) (n : Word),
    (ea s (.reg r)).toNat = (getReg s r).toNat ∧
    (ea s (.regPlus r n)).toNat = ((getReg s r).toNat + n.toNat) % 2 ^ 32 ∧
    ((ea s (.regMinus r n)).toNat : Int) = ((getReg s r).toNat - n.toNat : Int) % 2 ^ 32 ∧
    (ea s (.regReg r r2)).toNat = ((getReg s r).toNat + (getReg s r2).toNat) % 2 ^ 32 ∧
    ea s (.abs n) = n) ∧
  ∀ r : Reg8, resolve ('[' :: (r.name ++ [']'])) = .malformed ('[' :: (r.name ++ [']']))

-- ## Registers, memory and devices

/-- The 8-bit names are views of one byte of the low four registers: which byte each reads, and that writing one changes
only that byte of its parent (10_state.md R24). The names and the bytes they view are the spec's general knowledge
(decision D4); the model follows them (log entry 22). -/
def Obligations.SubRegisterViews : Prop :=
  ∀ (s : State),
    (getReg8 s .al = (getReg s .eax).extractLsb' 0 8 ∧ getReg8 s .ah = (getReg s .eax).extractLsb' 8 8 ∧
     getReg8 s .cl = (getReg s .ecx).extractLsb' 0 8 ∧ getReg8 s .ch = (getReg s .ecx).extractLsb' 8 8 ∧
     getReg8 s .dl = (getReg s .edx).extractLsb' 0 8 ∧ getReg8 s .dh = (getReg s .edx).extractLsb' 8 8 ∧
     getReg8 s .bl = (getReg s .ebx).extractLsb' 0 8 ∧ getReg8 s .bh = (getReg s .ebx).extractLsb' 8 8) ∧
    ∀ (r : Reg8) (b : Byte),
      getReg8 (setReg8 s r b) r = b ∧
      (∀ r2, r2 ≠ r → getReg8 (setReg8 s r b) r2 = getReg8 s r2) ∧
      (∀ p, (getReg (setReg8 s r b) p).extractLsb' 16 16 = (getReg s p).extractLsb' 16 16) ∧
      RegsBut [reg8Parent r] s (setReg8 s r b)

/-- Ordinary memory is little-endian and made of single bytes: the four bytes of a stored word, read one by one and as a
word, no other byte changed, and a word read as the four bytes that stand there (20_memory.md R51, R52). -/
def Obligations.LittleEndianMemory : Prop :=
  (∀ (s : State) (a v : Word), Invariant s → isMmio s.cfg a.toNat = false → memWriteOk s a 4 = true →
    let t := memPoke s a 4 v
    (bankByte t a.toNat = v.extractLsb' 0 8 ∧ bankByte t (a.toNat + 1) = v.extractLsb' 8 8 ∧
     bankByte t (a.toNat + 2) = v.extractLsb' 16 8 ∧ bankByte t (a.toNat + 3) = v.extractLsb' 24 8) ∧
    (∀ x, x < a.toNat ∨ a.toNat + 4 ≤ x → bankByte t x = bankByte s x) ∧
    memPeek t a 4 = v) ∧
  ∀ (s : State) (a : Word), isMmio s.cfg a.toNat = false →
    memPeek s a 1 = (bankByte s a.toNat).setWidth 32 ∧
    memPeek s a 4 =
      bankByte s (a.toNat + 3) ++ bankByte s (a.toNat + 2) ++ bankByte s (a.toNat + 1) ++ bankByte s a.toNat

/-- A byte of ordinary memory out of range reads as 0, with no other effect; a write that touches one raises the
out-of-range error at the first such byte; and a word whose upper bytes reach a device is refused, read or written
(20_memory.md R54 to R56). -/
def Obligations.OutOfRangeAccesses : Prop :=
  (∀ (s : State) (x : Nat), s.cfg.memSize ≤ x → bankByte s x = 0) ∧
  (∀ (s t : State) (a v : Word) (n : Nat), isMmio s.cfg a.toNat = false → memRead s a n = .done v t → t = s) ∧
  (∀ (s : State) (a v : Word) (n : Nat), 0 < n → (∀ i < n, isMmio s.cfg (a.toNat + i) = false) →
    s.cfg.memSize < a.toNat + n →
    ∃ x, memWrite s a n v = .raised (.memoryOutOfRange x) s ∧ a.toNat ≤ x ∧ x < a.toNat + n ∧ s.cfg.memSize ≤ x ∧
      ∀ y, a.toNat ≤ y → y < x → y < s.cfg.memSize) ∧
  ∀ (s : State) (a v : Word) (n i : Nat), isMmio s.cfg a.toNat = false → i < n → isMmio s.cfg (a.toNat + i) = true →
    memRead s a n = .refused .mixedMmioAccess ∧ memWrite s a n v = .refused .mixedMmioAccess

/-- The LCD registers: a read gives 0 and does nothing, a write of any width sets the one pixel of the address to the low
byte and nothing else (60_exceptions.md R214, 20_memory.md R54). -/
def Obligations.LcdRegisters : Prop :=
  ∀ (s : State) (a v : Word) (n : Nat), Invariant s → classify s.cfg a.toNat = .lcd →
    memRead s a n = .done 0 s ∧
    ∃ t, memWrite s a n v = .done () t ∧
      t.pixels.read (a.toNat - s.cfg.lcdBase) = v.setWidth 8 ∧
      (∀ i, i ≠ a.toNat - s.cfg.lcdBase → t.pixels.read i = s.pixels.read i) ∧
      t = { s with pixels := t.pixels }

/-- The three keyboard registers: status, keycode with its one pop, and keystate; an empty queue gives a free value and
changes no event; a write does nothing (60_exceptions.md R215). The draw counter is the model's (log entry 8). -/
def Obligations.KeyboardRegisters : Prop :=
  ∀ (s : State) (a : Word) (n : Nat), Invariant s → classify s.cfg a.toNat = .kbd →
    (a.toNat = s.cfg.kbdBase → memRead s a n = .done (if s.kq = [] then 0 else 1) s) ∧
    (a.toNat = s.cfg.kbdBase + 1 → ∀ code pressed rest, s.kq = (code, pressed) :: rest →
      memRead s a n = .done (code.setWidth 32)
        { s with kq := rest, lastCode := code, lastState := if pressed then 1 else 0 }) ∧
    (a.toNat = s.cfg.kbdBase + 1 → s.kq = [] →
      ∃ b : Byte, memRead s a n = .done (b.setWidth 32) { s with draws := s.draws + 1 }) ∧
    (a.toNat = s.cfg.kbdBase + 2 → memRead s a n = .done (s.lastState.setWidth 32) s) ∧
    ∀ v, memWrite s a n v = .done () s

-- ## Flags

/-- The carry and overflow of addition and subtraction in integers, and the derived facts about INC, DEC and NEG
(40_flag_module.md R97 to R101). -/
def Obligations.FlagArithmetic : Prop :=
  ∀ (f d v : Word),
    (cf (flagsAdd f d v (d + v)) = true ↔ 2 ^ 32 ≤ d.toNat + v.toNat) ∧
    (of (flagsAdd f d v (d + v)) = true ↔ d.toInt + v.toInt < -2 ^ 31 ∨ 2 ^ 31 ≤ d.toInt + v.toInt) ∧
    (cf (flagsSub f d v (d - v)) = true ↔ d.toNat < v.toNat) ∧
    (of (flagsSub f d v (d - v)) = true ↔ d.toInt - v.toInt < -2 ^ 31 ∨ 2 ^ 31 ≤ d.toInt - v.toInt) ∧
    cf (flagsInc f d (d + 1)) = cf f ∧
    (of (flagsInc f d (d + 1)) = true ↔ d = 0x7FFFFFFF) ∧
    (zf (flagsInc f d (d + 1)) = true ↔ d = 0xFFFFFFFF) ∧
    cf (flagsDec f d (d - 1)) = cf f ∧
    (of (flagsDec f d (d - 1)) = true ↔ d = 0x80000000) ∧
    (zf (flagsDec f d (d - 1)) = true ↔ d = 1) ∧
    (cf (flagsNeg f d (0 - d)) = true ↔ d ≠ 0) ∧
    (of (flagsNeg f d (0 - d)) = true ↔ d = 0x80000000)

/-- The sixteen conditions: the flags each reads, and what each means after a comparison of `d` with `v`
(40_flag_module.md R112). The formulas are the spec's general knowledge (R112, decisions D21 and D22); the model follows
them (log entry 22). -/
def Obligations.ConditionsAfterCompare : Prop :=
  (∀ f : Word,
    holds .o f = f.getLsbD 11 ∧ holds .no f = !f.getLsbD 11 ∧ holds .b f = f.getLsbD 0 ∧ holds .ae f = !f.getLsbD 0 ∧
    holds .e f = f.getLsbD 6 ∧ holds .z f = f.getLsbD 6 ∧ holds .ne f = !f.getLsbD 6 ∧ holds .nz f = !f.getLsbD 6 ∧
    holds .be f = (f.getLsbD 0 || f.getLsbD 6) ∧ holds .a f = (!f.getLsbD 0 && !f.getLsbD 6) ∧
    holds .s f = f.getLsbD 7 ∧ holds .ns f = !f.getLsbD 7 ∧ holds .l f = (f.getLsbD 7 != f.getLsbD 11) ∧
    holds .ge f = (f.getLsbD 7 == f.getLsbD 11) ∧ holds .le f = (f.getLsbD 6 || f.getLsbD 7 != f.getLsbD 11) ∧
    holds .g f = (!f.getLsbD 6 && f.getLsbD 7 == f.getLsbD 11)) ∧
  ∀ f d v : Word,
    let after := flagsSub f d v (d - v)
    (holds .b after = true ↔ d.toNat < v.toNat) ∧ (holds .ae after = true ↔ v.toNat ≤ d.toNat) ∧
    (holds .e after = true ↔ d = v) ∧ (holds .ne after = true ↔ d ≠ v) ∧
    (holds .be after = true ↔ d.toNat ≤ v.toNat) ∧ (holds .a after = true ↔ v.toNat < d.toNat) ∧
    (holds .o after = true ↔ d.toInt - v.toInt ≠ (d - v).toInt) ∧
    (holds .s after = true ↔ (d - v).toInt < 0) ∧
    (holds .l after = true ↔ d.toInt < v.toInt) ∧ (holds .ge after = true ↔ v.toInt ≤ d.toInt) ∧
    (holds .le after = true ↔ d.toInt ≤ v.toInt) ∧ (holds .g after = true ↔ v.toInt < d.toInt)

-- ## The step

/-- A step fetches the record at pc, decodes it and runs the instruction: a refusal is the step's refusal; a fault of
the engine ends the step as it is; and otherwise the step returns the record's line and halts when pc has come past the
end of the program (48_control_flow.md R178, R180). The report is the model's own field (log entry 9), and that an error
of the engine is a next state is its reading of 60_exceptions.md R209 (log entry 5). -/
def Obligations.StepRunsDecoded : Prop :=
  ∀ (s : State) (rec : Record) (i : Instr), configOk s.cfg = true → s.faulted = false → s.halted = false →
    fetch s = some rec → decode rec = .ok i →
    (∀ r, exec i s = .refused r → step s = .refused r) ∧
    (∀ t, exec i s = .next t → t.faulted = true → step s = .next t) ∧
    (∀ t, exec i s = .next t → t.faulted = false →
      step s = .next { t with halted := t.halted || decide (t.prog.length ≤ t.pc), report := .returned rec.line }) ∧
    ∀ f, exec i s ≠ .fault f

/-- A step in the Halted state, or with pc past the end of the program, returns −1: the first changes nothing, the second
halts; no transition leaves the Faulted state (48_control_flow.md R179, R180). The report is the model's own field (log
entry 9), and the fault is the model's (log entry 10). -/
def Obligations.StepAtRest : Prop :=
  ∀ s : State, configOk s.cfg = true →
    (s.faulted = true → step s = .fault .stepWhileFaulted) ∧
    (s.faulted = false → s.halted = true → step s = .next { s with report := .returned (-1) }) ∧
    (s.faulted = false → s.halted = false → s.prog.length ≤ s.pc →
      step s = .next { s with halted := true, report := .returned (-1) })

/-- After any step that leaves the engine Runnable, pc is in the program (10_state.md R29, 48_control_flow.md R180). -/
def Obligations.RunnableInProgram : Prop :=
  ∀ s t : State, step s = .next t → t.faulted = false → t.halted = false → t.pc < t.prog.length

/-- Every step keeps the invariant: a well-formed configuration, canonical memories within their sizes, reserved flag
bits 0, Halted and Faulted exclusive, a legal keystate, unique labels (10_state.md R26, R29, R34 to R36, R39). After a
step that ends in MemoryOutOfRange or ControlFlowFault, R210 of 60_exceptions.md leaves flags, memory and devices
unspecified, and that the reserved flag bits, the keystate and the sizes of the memories are as R26 and R34 to R36 say
is the model's reading (log entry 6). The order of the breakpoints is the model's choice (log entry 20). -/
def Obligations.InvariantKept : Prop := ∀ s t : State, Invariant s → step s = .next t → Invariant t

/-- The state after reset satisfies the invariant. Its parameters and the order of the breakpoints are the model's
choice (log entries 1 and 20). -/
def Obligations.ResetInvariant : Prop := Invariant State.reset

/-- A new engine instance, for any parameters: every field at the value of 10_state.md R42 and R43. That an unlisted
byte reads as 0 is the model's representation of what R43 says (log entry 21). -/
def Obligations.NewInstanceValues : Prop :=
  ∀ c : Config,
    let s := State.fresh c
    (∀ r, getReg s r = if r = .esp then c.spReset else 0) ∧ s.flags = 0 ∧ s.pc = 0 ∧ s.cs = [] ∧
    s.halted = false ∧ s.faulted = false ∧ s.running = false ∧ s.mode = .teaching ∧
    (∀ x, s.bankA.read x = 0 ∧ s.bankB.read x = 0 ∧ s.pixels.read x = 0) ∧
    s.kq = [] ∧ s.lastCode = 0 ∧ s.lastState = 0 ∧ s.console = [] ∧ s.bps = [] ∧ s.prog = [] ∧ s.labels = []

-- ## What the whole machine keeps

/-- How every instruction ends, in every state: it completes, enters the Faulted state with one error, or is refused for
one reason, and the first failing check of 60_exceptions.md R219 decides which. The report is the model's own field (log
entry 9); which forms are refused, and by which of two names, rests on log entries 15 to 17. That an error is a next
state is the model's reading (log entry 5), and the addresses and registers that PUSH, POP, the strings and the divides
use are the spec's general knowledge (log entry 22). -/
def Obligations.VerdictOfEveryInstruction : Prop :=
  ∀ (i : Instr) (s : State),
    match verdict i s with
    | .completes => ∃ t, exec i s = .next t ∧ t.faulted = s.faulted ∧ t.report = s.report
    | .raises e => ∃ t, exec i s = .next t ∧ t.faulted = true ∧ t.report = .raised e
    | .refuses r => exec i s = .refused r

/-- The register frame of every instruction: one that completes changes no register but those its rule writes
(10_state.md R23). Which registers the rules write by role is in part the spec's general knowledge (10_state.md R22,
decision D5); the model follows it (log entry 22). -/
def Obligations.RegisterFrame : Prop :=
  ∀ (i : Instr) (s t : State), exec i s = .next t → t.faulted = false → RegsBut (writtenRegs i) s t

/-- The flag frame of every instruction: one that completes keeps or clears the flags that 10_state.md R27 says it keeps
or clears, and no instruction changes another bit of F (10_state.md R26). That XADD writes flags and how RCL and RCR do
is the spec's general knowledge (decisions D26 and D35); the model follows it (log entry 22). -/
def Obligations.FlagFrame : Prop :=
  ∀ (i : Instr) (s t : State), i.wf = true → exec i s = .next t → t.faulted = false →
    FlagsObey (flagFrame i s) s.flags t.flags

/-- The memory frame of every instruction: one that completes and stores nothing leaves every byte and every pixel as it
was; one that stores leaves every byte outside the stored ones, and every pixel but the one stored to; and a store to a
device leaves every byte of memory (20_memory.md R50, R58). That PUSH stores below ESP and STOS and MOVS at EDI is the
spec's general knowledge (decisions D5 and D37); the model follows it (log entry 22). -/
def Obligations.MemoryFrame : Prop :=
  ∀ (i : Instr) (s t : State), exec i s = .next t → t.faulted = false →
    (stores i s = none → SameMemory s t) ∧
    ∀ a n, stores i s = some (a, n) →
      (∀ x, x < a.toNat ∨ a.toNat + n ≤ x → bankByte t x = bankByte s x) ∧
      (isMmio s.cfg a.toNat = true → ∀ x, bankByte t x = bankByte s x) ∧
      ∀ p, s.cfg.lcdBase + p ≠ a.toNat → t.pixels.read p = s.pixels.read p

/-- The keyboard frame of every instruction: one that completes and reads no keycode register leaves the keyboard as it
was (20_memory.md R57). That POP reads at ESP and the strings at ESI and EDI is the spec's general knowledge (decisions
D5 and D37); the model follows it (log entry 22). -/
def Obligations.KeyboardFrame : Prop :=
  ∀ (i : Instr) (s t : State), exec i s = .next t → t.faulted = false →
    (∀ p ∈ loads i s, p.1.toNat ≠ s.cfg.kbdBase + 1) → SameKeyboard s t

/-- The control frame of every instruction, completed or not: no instruction changes the configuration, the mode,
`running`, bank B, the breakpoints, the program or the labels; the call stack changes only by CALL and RET, and the
console only by INT; and one that completes and is not JMP, a Jcc, CALL, RET or a LOOP leaves pc at the next index. EXEC
changes neither pc nor the call stack (10_state.md R30, R31, R33, R37 to R39, 20_memory.md R46, 48_control_flow.md R181,
70_reset_and_hazards.md R228). That bank B stays as it was after MemoryOutOfRange or ControlFlowFault too is the model's
reading of 20_memory.md R46 against 60_exceptions.md R210 (log entry 6). -/
def Obligations.ControlFrame : Prop :=
  (∀ (i : Instr) (s t : State), exec i s = .next t →
    t.cfg = s.cfg ∧ t.mode = s.mode ∧ t.running = s.running ∧ t.bankB = s.bankB ∧ t.bps = s.bps ∧ t.prog = s.prog ∧
    t.labels = s.labels ∧
    (i.mnemonic ≠ .call → i.mnemonic ≠ .ret → t.cs = s.cs) ∧
    (i.mnemonic ≠ .int → t.console = s.console) ∧
    (i.mnemonic ∉ controlMnemonics → t.faulted = false → t.pc = s.pc + 1)) ∧
  ∀ (s t : State) (rec : Record), hostExec s rec = .next t → t.pc = s.pc ∧ t.cs = s.cs

/-- An instruction that completes sets `halted` only if it is HLT, INT3 or INT 0x20 (10_state.md R29, R32). -/
def Obligations.WhatHalts : Prop :=
  ∀ (i : Instr) (s t : State), exec i s = .next t → t.faulted = false → s.halted = false → t.halted = true →
    i = .hlt [] ∨ i = .int3 [] ∨ i = .int [.imm 0x20]

/-- What a fault of STEP or EXEC fixes (60_exceptions.md R209): Faulted and not Halted, the error to the host, pc, the
call stack, the mode, the console, the breakpoints, the program, the labels and `running` as before; only RESET and LOAD
leave the Faulted state; a fault of READ_IO or WRITE_IO changes no state. That an EXEC that faults in the Halted state
leaves it is the model's reading of 10_state.md R29 (log entry 18), and that WRITE_IO takes every integer is its reading
of 20_memory.md R61 (log entry 25). -/
def Obligations.FaultFrame : Prop :=
  (∀ s t : State, s.faulted = false → (step s = .next t ∨ ∃ rec, hostExec s rec = .next t) → t.faulted = true →
    t.halted = false ∧ (∃ e, t.report = .raised e) ∧ t.pc = s.pc ∧ t.cs = s.cs ∧ t.mode = s.mode ∧
    t.console = s.console ∧ t.bps = s.bps ∧ t.prog = s.prog ∧ t.labels = s.labels ∧ t.running = s.running) ∧
  (∀ (op : HostOp) (s t : State) (r : HostResult), s.faulted = true → hostStep op s = .next (t, r) →
    t.faulted = false → op = .reset ∨ ∃ records labels, op = .load records labels) ∧
  ∀ (s : State) (addr : Nat) (v : Int), isMmio s.cfg addr = false →
    hostReadIo s addr = (s, .error (.unknownIOAddress addr)) ∧
    hostWriteIo s addr v = (s, .error (.unknownIOAddress addr))

/-- A fault of the checks that come before an instruction does anything changes no register, flag, byte, pixel or
keyboard state: "Steps 1 to 5 change no state" (60_exceptions.md R219). That R210 does not free them after such a fault
is the model's reading (log entry 7), and so is that `halted` is false after one met in the Halted state (log entry
18). -/
def Obligations.EarlyFaultsChangeNothing : Prop :=
  ∀ (i : Instr) (s t : State) (e : EngineFault), verdict i s = .raises e → e.early = true → exec i s = .next t →
    t = { s with faulted := true, halted := false, report := .raised e }

/-- A wrong operand count, of every mnemonic: refused where 30_encoding.md R89 says; otherwise a noop that advances pc,
under the noop policy, or `BadOperandCount`, under the fault policy (R88), whatever the operands are. -/
def Obligations.WrongOperandCounts : Prop :=
  ∀ (i : Instr) (s : State), i.arity ≠ declaredCount i.mnemonic →
    let refused := i.mnemonic ∈ controlMnemonics ∨ (i.mnemonic = .imul ∧ (i.arity = 2 ∨ i.arity = 3)) ∨
      (i.mnemonic ∈ shiftMnemonics ∧ i.arity = 1)
    (refused → exec i s = .refused .formNotAdmitted) ∧
    (¬refused → s.cfg.countPolicy = .noop → exec i s = .next { s with pc := s.pc + 1 }) ∧
    (¬refused → s.cfg.countPolicy = .fault →
      ∃ t, exec i s = .next t ∧ t.faulted = true ∧ t.report = .raised (.badOperandCount i.mnemonic))

/-- The form table, of every mnemonic: with the declared count and operands that all resolved, a form outside it is
refused by one of the two names; a form inside it is not, but for a CMOVcc with a source in a device's range
(30_encoding.md R81, R85 to R87, 41_data_movement.md R115). Three readings of the model are in it: which of two refusals
is named, INT of an 8-bit register among them (log entry 15); a CMOVcc whose destination would be ignored is refused for
its source as any is (log entry 16); and a shift of memory by an 8-bit register is in the table (log entry 17). -/
def Obligations.FormTable : Prop :=
  ∀ (i : Instr) (s : State), i.arity = declaredCount i.mnemonic → i.printable = true →
    (i.wf = false → exec i s = .refused .formNotAdmitted ∨ exec i s = .refused .byteFormNotShown) ∧
    (i.wf = true → exec i s ≠ .refused .byteFormNotShown) ∧
    (i.wf = true → exec i s = .refused .formNotAdmitted →
      ∃ p ∈ cmovs, ∃ dst m, i = p.2 [dst, .mem m] ∧ isMmio s.cfg (ea s m).toNat = true)

/-- The mode is read by the rotates, the multiplies, the divides and MOV between two memory operands, and by nothing
else: any other instruction does the same in either mode (10_state.md R33, 41_data_movement.md R114). That it does so
after MemoryOutOfRange and ControlFlowFault too rests on the model's free values, which read the draw counter alone (log
entries 6 and 8). -/
def Obligations.ModeReaders : Prop :=
  ∀ (i : Instr) (s : State) (m : Mode),
    i.mnemonic ∉ [.rol, .ror, .rcl, .rcr, .mul, .imul, .div, .idiv] → (∀ a b, i ≠ .mov [.mem a, .mem b]) →
    (∀ t, exec i s = .next t → exec i { s with mode := m } = .next { t with mode := m }) ∧
    (∀ r, exec i s = .refused r → exec i { s with mode := m } = .refused r)

/-- No instruction reads `running`, the breakpoints, bank B, the console or the program: with other values there it does
the same to everything else (10_state.md R31, R38, R40, 20_memory.md R46, R47). That it does so after MemoryOutOfRange
and ControlFlowFault too rests on the model's free values, which read the draw counter alone (log entries 6 and 8). -/
def Obligations.StateNoInstructionReads : Prop :=
  ∀ (i : Instr) (s : State) (b : Bool) (lines : List Int) (bank : Memory) (text : Text) (prog : List Record),
    (∀ r, exec i s = .refused r →
      exec i { s with running := b, bps := lines, bankB := bank, console := text, prog := prog } = .refused r) ∧
    ∀ t, exec i s = .next t →
      ∃ added : Text, t.console = s.console ++ added ∧
        exec i { s with running := b, bps := lines, bankB := bank, console := text, prog := prog } =
          .next { t with running := b, bps := lines, bankB := bank, console := text ++ added, prog := prog }

-- ## Data movement

/-- MOV, every admitted form but two memory operands in strict mode, where its accesses complete: the source's value is
stored in the destination and nothing else changes, but for what the read does to the keyboard
(41_data_movement.md R113, R114). -/
def Obligations.MovCopies : Prop :=
  ∀ (s : State) (dst src : Operand), Invariant s → (Instr.mov [dst, src]).wf = true →
    (dst.isMem && src.isMem && s.mode == .strict) = false → readOk s src = true → writeOk s dst = true →
    ∃ t, exec (.mov [dst, src]) s = .next t ∧ Stored (touch s src) dst (peek s src) t ∧ t.flags = s.flags ∧
      SameKeyboard (touch s src) t ∧ FellThrough s t

/-- MOV between two memory operands, by mode: in strict mode the error before any operand is read or written; in teaching
mode the word at the source's address is written at the destination's (41_data_movement.md R114). That registers stay as
they were after that error is the model's reading (log entry 7). -/
def Obligations.MovMemoryToMemory : Prop :=
  ∀ (s : State) (dst src : MemShape),
    (s.mode = .strict →
      ∃ t, exec (.mov [.mem dst, .mem src]) s = .next t ∧ t.faulted = true ∧ t.report = .raised .modePolicyError ∧
        t.pc = s.pc ∧ RegsBut [] s t ∧ SameMemory s t ∧ SameKeyboard s t) ∧
    (s.mode = .teaching → Invariant s → memReadOk s (ea s src) 4 = true → memWriteOk s (ea s dst) 4 = true →
      ∃ t, exec (.mov [.mem dst, .mem src]) s = .next t ∧
        StoredAt (memTouch s (ea s src)) (ea s dst) 4 (memPeek s (ea s src) 4) t ∧ RegsBut [] s t ∧
        t.flags = s.flags ∧ FellThrough s t)

/-- The sixteen CMOVcc: with a register destination and a register or ordinary memory source, the move happens exactly
when the condition holds, and nothing else changes; a memory or immediate destination is ignored; an 8-bit register in
either place, a second memory operand, and an immediate or a device's address as the source are refused, whatever the
destination and whether or not the condition holds (41_data_movement.md R115, 40_flag_module.md R112, 30_encoding.md R85
to R87). That these refusals come before the destination is ignored, although R115's pseudocode begins with the latter,
is the model's reading (log entry 16). The names: CMOVO, CMOVNO, CMOVB, CMOVAE, CMOVE, CMOVZ, CMOVNE, CMOVNZ, CMOVBE,
CMOVA, CMOVS, CMOVNS, CMOVL, CMOVGE, CMOVLE, CMOVG. The names and the formulas of the conditions are the spec's general
knowledge (decisions D21 and D22); the model follows them (log entry 22). -/
def Obligations.ConditionalMoves : Prop :=
  ∀ p ∈ cmovs, ∀ (s : State) (src : Operand),
    (∀ r, (p.2 [.reg32 r, src]).wf = true → (∀ m, src = .mem m → isMmio s.cfg (ea s m).toNat = false) →
      (holds p.1 s.flags = true → readOk s src = true) →
      ∃ t, exec (p.2 [.reg32 r, src]) s = .next t ∧
        getReg t r = (if holds p.1 s.flags then peek s src else getReg s r) ∧ RegsBut [r] s t ∧ SameMemory s t ∧
        t.flags = s.flags ∧ SameKeyboard s t ∧ FellThrough s t) ∧
    (∀ dst, (∃ v, dst = .imm v) ∨ (∃ m, dst = .mem m) → (p.2 [dst, src]).wf = true →
      (∀ m, src = .mem m → isMmio s.cfg (ea s m).toNat = false) →
      exec (p.2 [dst, src]) s = .next { s with pc := s.pc + 1 }) ∧
    (∀ dst, dst.resolved = true → src.resolved = true → (dst.isReg8 || src.isReg8) = true →
      exec (p.2 [dst, src]) s = .refused .byteFormNotShown) ∧
    (∀ m m2, src = .mem m2 → exec (p.2 [.mem m, src]) s = .refused .formNotAdmitted) ∧
    ∀ dst, dst.resolved = true → dst.isReg8 = false →
      (∃ v, src = .imm v) ∨ (∃ m, src = .mem m ∧ isMmio s.cfg (ea s m).toNat = true) →
      exec (p.2 [dst, src]) s = .refused .formNotAdmitted

/-- PUSH and POP: the value read before ESP is decremented, the word below the old ESP, and back; the destination of POP
is written after ESP is incremented, so that POP ESP leaves the popped value (41_data_movement.md R132, R133). ESP's
role, the decrement before the store and POP's order are the spec's general knowledge (R132, R133, decisions D5 and
D37); the model follows them (log entry 22). -/
def Obligations.StackInstructions : Prop :=
  (∀ (s : State) (src : Operand), Invariant s → (Instr.push [src]).wf = true → readOk s src = true →
    memWriteOk s (getReg s .esp - 4) 4 = true →
    ∃ t, exec (.push [src]) s = .next t ∧ getReg t .esp = getReg s .esp - 4 ∧ RegsBut [.esp] s t ∧
      StoredAt (touch s src) (getReg s .esp - 4) 4 (peek s src) t ∧ t.flags = s.flags ∧
      SameKeyboard (touch s src) t ∧ FellThrough s t) ∧
  (∀ (s : State) (r : Reg32), memReadOk s (getReg s .esp) 4 = true →
    ∃ t, exec (.pop [.reg32 r]) s = .next t ∧ getReg t r = memPeek s (getReg s .esp) 4 ∧
      (r ≠ .esp → getReg t .esp = getReg s .esp + 4) ∧ RegsBut [.esp, r] s t ∧ SameMemory s t ∧ t.flags = s.flags ∧
      SameKeyboard (memTouch s (getReg s .esp)) t ∧ FellThrough s t) ∧
  ∀ (s : State) (m : MemShape), Invariant s → memReadOk s (getReg s .esp) 4 = true →
    let a := ea (setReg s .esp (getReg s .esp + 4)) m
    memWriteOk s a 4 = true →
    ∃ t, exec (.pop [.mem m]) s = .next t ∧ getReg t .esp = getReg s .esp + 4 ∧ RegsBut [.esp] s t ∧
      StoredAt (memTouch s (getReg s .esp)) a 4 (memPeek s (getReg s .esp) 4) t ∧ t.flags = s.flags ∧
      SameKeyboard (memTouch s (getReg s .esp)) t ∧ FellThrough s t

/-- PUSH of one register then POP to another gives the value and ESP back: "PUSH then POP restores both the value and
the stack-pointer register to their pre-push state" (41_data_movement.md R132, R133). That the stored word lies below
the old ESP, as the hypotheses on it say, is the spec's general knowledge (R132, R133, decisions D5 and D37); the model
follows it (log entry 22). -/
def Obligations.PushThenPop : Prop :=
  ∀ (s : State) (r r2 : Reg32), Invariant s → r2 ≠ .esp → isMmio s.cfg (getReg s .esp - 4).toNat = false →
    memWriteOk s (getReg s .esp - 4) 4 = true →
    ∃ t u, exec (.push [.reg32 r]) s = .next t ∧ exec (.pop [.reg32 r2]) t = .next u ∧
      getReg u r2 = getReg s r ∧ getReg u .esp = getReg s .esp ∧ RegsBut [r2] s u ∧ u.pc = s.pc + 2

/-- LAHF and SAHF: the bits each transfers, the constant bits of AH, and what stays; LAHF then SAHF leaves F as it was
(41_data_movement.md R134, R135). That the accumulator is EAX is the spec's decision D5, the constant bits its decision
D45; the model follows them (log entry 22). -/
def Obligations.FlagTransfers : Prop :=
  ∀ s : State,
    (∃ t, exec (.lahf []) s = .next t ∧
      (getReg8 t .ah).toNat = (sf s.flags).toNat * 128 + (zf s.flags).toNat * 64 + 2 + (cf s.flags).toNat ∧
      getReg8 t .al = getReg8 s .al ∧ (getReg t .eax).extractLsb' 16 16 = (getReg s .eax).extractLsb' 16 16 ∧
      RegsBut [.eax] s t ∧ SameMemory s t ∧ t.flags = s.flags ∧ SameKeyboard s t ∧ FellThrough s t ∧
      ∃ u, exec (.sahf []) t = .next u ∧ u.flags = s.flags) ∧
    ∃ t, exec (.sahf []) s = .next t ∧
      FlagsObey ⟨.is ((getReg s .eax).getLsbD 8), .is ((getReg s .eax).getLsbD 14), .is ((getReg s .eax).getLsbD 15),
        .kept⟩ s.flags t.flags ∧
      RegsBut [] s t ∧ SameMemory s t ∧ SameKeyboard s t ∧ FellThrough s t

/-- BSWAP reverses the four bytes of its register, changes nothing else, and twice gives the register back
(41_data_movement.md R136). -/
def Obligations.ByteSwaps : Prop :=
  ∀ (s : State) (r : Reg32),
    ∃ t, exec (.bswap [.reg32 r]) s = .next t ∧
      (∀ i < 4, (getReg t r).extractLsb' (8 * i) 8 = (getReg s r).extractLsb' (8 * (3 - i)) 8) ∧
      RegsBut [r] s t ∧ SameMemory s t ∧ t.flags = s.flags ∧ SameKeyboard s t ∧ FellThrough s t ∧
      ∃ u, exec (.bswap [.reg32 r]) t = .next u ∧ RegsBut [] s u

-- ## Arithmetic, logic and bit scan

/-- ADD, SUB, AND, OR and XOR of 32 bits: the result, the flags and the frame, for every admitted form
(42_arithmetic.md R137, R138, 43_logical_bitscan.md R144 to R146, 40_flag_module.md R96 to R98). -/
def Obligations.WideTwoOperand : Prop :=
  WideResult .add (fun d v => BitVec.ofNat 32 (d.toNat + v.toNat)) addRules ∧
  WideResult .sub (fun d v => BitVec.ofInt 32 (d.toNat - v.toNat)) subRules ∧
  WideResult .and (fun d v => d &&& v) (fun _ _ r => logicRules r) ∧
  WideResult .or (fun d v => d ||| v) (fun _ _ r => logicRules r) ∧
  WideResult .xor (fun d v => d ^^^ v) (fun _ _ r => logicRules r)

/-- CMP and TEST of 32 bits: the flags of SUB and AND, with nothing stored (42_arithmetic.md R139,
43_logical_bitscan.md R147). -/
def Obligations.WideCompares : Prop :=
  WideCompare .cmp (fun d v => BitVec.ofInt 32 (d.toNat - v.toNat)) subRules ∧
  WideCompare .test (fun d v => d &&& v) (fun _ _ r => logicRules r)

/-- INC, DEC and NEG of 32 bits: the result, the flags with CF kept or set by its own rule, and the frame
(42_arithmetic.md R140 to R142, 40_flag_module.md R99 to R101). -/
def Obligations.WideOneOperand : Prop :=
  WideUnary .inc (fun d => BitVec.ofNat 32 (d.toNat + 1)) (fun d r => { addRules d 1 r with cf := .kept }) ∧
  WideUnary .dec (fun d => BitVec.ofInt 32 (d.toNat - 1)) (fun d r => { subRules d 1 r with cf := .kept }) ∧
  WideUnary .neg (fun d => BitVec.ofInt 32 (-d.toNat))
    (fun d r => { subRules 0 d r with cf := .is (decide (d ≠ 0)) })

/-- The 8-bit forms of ADD, SUB, CMP, AND, OR, XOR, TEST, INC, DEC and NEG: the byte written, and the table of flags with
its free entries, which the statement leaves open (40_flag_module.md R111, 30_encoding.md R85). -/
def Obligations.ByteForms : Prop :=
  ByteResult .add true (fun a b => BitVec.ofNat 8 (a.toNat + b.toNat)) (fun _ _ _ => ⟨.free, .free, .free, .free⟩) ∧
  ByteResult .sub true (fun a b => BitVec.ofInt 8 (a.toNat - b.toNat))
    (fun a b _ => ⟨.is (decide (a.toNat < b.toNat)), .is (a == b), .free, .free⟩) ∧
  ByteResult .cmp false (fun a b => BitVec.ofInt 8 (a.toNat - b.toNat))
    (fun a b _ => ⟨.is (decide (a.toNat < b.toNat)), .is (a == b), .free, .free⟩) ∧
  ByteResult .and true (fun a b => a &&& b) (fun _ _ r => ⟨.is false, .is (r == 0), .free, .is false⟩) ∧
  ByteResult .or true (fun a b => a ||| b) (fun _ _ r => ⟨.is false, .is (r == 0), .free, .is false⟩) ∧
  ByteResult .xor true (fun a b => a ^^^ b) (fun _ _ r => ⟨.is false, .is (r == 0), .free, .is false⟩) ∧
  ByteResult .test false (fun a b => a &&& b) (fun _ _ r => ⟨.is false, .is (r == 0), .free, .is false⟩) ∧
  ByteUnary .inc (fun a => BitVec.ofNat 8 (a.toNat + 1)) (fun _ => ⟨.kept, .free, .free, .free⟩) ∧
  ByteUnary .dec (fun a => BitVec.ofInt 8 (a.toNat - 1)) (fun a => ⟨.kept, .is (a == 1), .free, .free⟩) ∧
  ByteUnary .neg (fun a => BitVec.ofInt 8 (-a.toNat)) (fun a => ⟨.is (a != 0), .is (a == 0), .free, .free⟩)

/-- XADD of two registers: the sum in the destination, the old destination in the source, the sum last where they are
one register, and the flags of the addition; a memory or immediate destination is ignored, whatever the second operand
resolved to (42_arithmetic.md R143). What XADD exchanges, its flags and its order are the spec's general knowledge
(decision D35); the model follows them (log entry 22). -/
def Obligations.ExchangeAdd : Prop :=
  (∀ (s : State) (a b : Reg32),
    let d := getReg s a
    let v := getReg s b
    let r : Word := BitVec.ofNat 32 (d.toNat + v.toNat)
    ∃ t, exec (.xadd [.reg32 a, .reg32 b]) s = .next t ∧ getReg t a = r ∧ (b ≠ a → getReg t b = d) ∧
      RegsBut [a, b] s t ∧ SameMemory s t ∧ FlagsObey (addRules d v r) s.flags t.flags ∧ SameKeyboard s t ∧
      FellThrough s t) ∧
  ∀ (s : State) (dst src : Operand), (∃ v, dst = .imm v) ∨ (∃ m, dst = .mem m) → src.resolved = true →
    exec (.xadd [dst, src]) s = .next { s with pc := s.pc + 1 }

/-- BSF and BSR: a source of 0 sets ZF and writes nothing; another gives the index of its least or greatest set bit and
clears ZF; no other flag changes (43_logical_bitscan.md R148, R149). -/
def Obligations.BitScans : Prop :=
  ∀ (s : State) (r : Reg32) (src : Operand), (Instr.bsf [.reg32 r, src]).wf = true → readOk s src = true →
    let v := peek s src
    (∃ t, exec (.bsf [.reg32 r, src]) s = .next t ∧
      (v = 0 → getReg t r = getReg s r) ∧
      (v ≠ 0 → v.getLsbD (getReg t r).toNat = true ∧ ∀ j < (getReg t r).toNat, v.getLsbD j = false) ∧
      RegsBut [r] s t ∧ SameMemory s t ∧ FlagsObey ⟨.kept, .is (v == 0), .kept, .kept⟩ s.flags t.flags ∧
      SameKeyboard (touch s src) t ∧ FellThrough s t) ∧
    ∃ t, exec (.bsr [.reg32 r, src]) s = .next t ∧
      (v = 0 → getReg t r = getReg s r) ∧
      (v ≠ 0 → v.getLsbD (getReg t r).toNat = true ∧ ∀ j, (getReg t r).toNat < j → v.getLsbD j = false) ∧
      RegsBut [r] s t ∧ SameMemory s t ∧ FlagsObey ⟨.kept, .is (v == 0), .kept, .kept⟩ s.flags t.flags ∧
      SameKeyboard (touch s src) t ∧ FellThrough s t

-- ## Shifts and rotates

/-- SHL, SHR and SAR with a masked count that is not 0: the result, the last bit shifted out, the overflow of a
single-bit shift, and the frame; SHL's CF takes the raw count, capped at 32, where the parameter says so
(44_shift_rotate.md R150 to R153, 40_flag_module.md R103 to R105). That SHL's OF follows that CF is R103's formula against
a sentence of 90_conflicts.md C2 (log entry 26), and that memory may be shifted by an 8-bit register is the model's
reading (log entry 17). -/
def Obligations.Shifts : Prop :=
  (let carry := fun (s : State) (d : Word) (n c : Nat) =>
      if s.cfg.shlCfRawCount then d.getLsbD (32 - min n 32) else d.getLsbD (32 - c)
   ShiftResult .shl (fun _ d c => BitVec.ofNat 32 (d.toNat * 2 ^ c)) fun s d n c r =>
     ⟨.is (carry s d n c), zeroOf r, signOf r, .is (c == 1 && (r.getLsbD 31 != carry s d n c))⟩) ∧
  (ShiftResult .shr (fun _ d c => BitVec.ofNat 32 (d.toNat / 2 ^ c)) fun _ d _ c r =>
     ⟨.is (d.getLsbD (c - 1)), zeroOf r, signOf r, .is (c == 1 && d.getLsbD 31)⟩) ∧
  ShiftResult .sar (fun _ d c => BitVec.ofInt 32 (d.toInt / 2 ^ c)) fun _ d _ c r =>
    ⟨.is (d.getLsbD (c - 1)), zeroOf r, signOf r, .is false⟩

/-- ROL, ROR, RCL and RCR with a masked count that is not 0: the rotation within 32 bits, or within the 33 bits of CF
and the destination, the new carry, the overflow of a single-bit rotate, ZF and SF by mode, and the frame
(44_shift_rotate.md R150, R154 to R157, 40_flag_module.md R106 to R108). That memory may be rotated by an 8-bit register
is the model's reading (log entry 17). The 33-bit rotates of RCL and RCR are the spec's general knowledge (R156, R157,
decision D26), that OF is 0 for more than one place is its decision D25, and the model follows both (log entry 22). -/
def Obligations.Rotates : Prop :=
  (ShiftResult .rol (fun _ d c => d.rotateLeft c) fun s _ _ c r =>
     rotateRules s (r.getLsbD 0) (c == 1 && (r.getLsbD 31 != r.getLsbD 0)) r) ∧
  (ShiftResult .ror (fun _ d c => d.rotateRight c) fun s _ _ c r =>
     rotateRules s (r.getLsbD 31) (c == 1 && (r.getLsbD 31 != r.getLsbD 30)) r) ∧
  (let wide := fun (s : State) (d : Word) (c : Nat) => (BitVec.ofBool (cf s.flags) ++ d).rotateLeft c
   ShiftResult .rcl (fun s d c => (wide s d c).setWidth 32) fun s d _ c r =>
     rotateRules s ((wide s d c).getLsbD 32) (c == 1 && (r.getLsbD 31 != (wide s d c).getLsbD 32)) r) ∧
  (let wide := fun (s : State) (d : Word) (c : Nat) => (BitVec.ofBool (cf s.flags) ++ d).rotateRight c
   ShiftResult .rcr (fun s d c => (wide s d c).setWidth 32) fun s d _ c r =>
     rotateRules s ((wide s d c).getLsbD 32) (c == 1 && (r.getLsbD 31 != r.getLsbD 30)) r)

/-- A shift or rotate whose count is a multiple of 32 changes nothing but pc; on a destination in a device's range it is
refused (40_flag_module.md R102). The seven: SHL, SHR, SAR, ROL, ROR, RCL, RCR. Memory by an 8-bit register is among the
forms by the model's reading (log entry 17). -/
def Obligations.ZeroCounts : Prop :=
  ∀ mk ∈ shifts, ∀ (s : State) (dst count : Operand), (mk [dst, count]).wf = true → maskedCount s count = 0 →
    ((∀ m, dst = .mem m → isMmio s.cfg (ea s m).toNat = false) →
      exec (mk [dst, count]) s = .next { s with pc := s.pc + 1 }) ∧
    ∀ m, dst = .mem m → isMmio s.cfg (ea s m).toNat = true → exec (mk [dst, count]) s = .refused .zeroCountMmio

-- ## Multiply and divide

/-- MUL and IMUL: EDX and EAX hold the exact unsigned or signed product, CF and OF say that EDX is not 0, ZF and SF are
by mode, and nothing else changes (45_multiply_divide.md R158 to R160, 40_flag_module.md R109). EAX, EDX and their order
are the spec's general knowledge (R158, decisions D5 and D27), and IMUL's CF and OF are its decision D30; the model follows
them (log entry 22). -/
def Obligations.Products : Prop :=
  ∀ (s : State) (src : Operand), (Instr.mul [src]).wf = true → readOk s src = true →
    let v := peek s src
    let rules := fun (t : State) =>
      let high := getReg t .edx != 0
      match s.mode with
      | .teaching => ⟨.is high, zeroOf (getReg t .eax), signOf (getReg t .eax), .is high⟩
      | .strict => ⟨.is high, .is false, .is false, .is high⟩
    (∃ t, exec (.mul [src]) s = .next t ∧
      (getReg t .edx ++ getReg t .eax).toNat = (getReg s .eax).toNat * v.toNat ∧
      RegsBut [.eax, .edx] s t ∧ SameMemory s t ∧ FlagsObey (rules t) s.flags t.flags ∧
      SameKeyboard (touch s src) t ∧ FellThrough s t) ∧
    ∃ t, exec (.imul [src]) s = .next t ∧
      (getReg t .edx ++ getReg t .eax).toInt = (getReg s .eax).toInt * v.toInt ∧
      RegsBut [.eax, .edx] s t ∧ SameMemory s t ∧ FlagsObey (rules t) s.flags t.flags ∧
      SameKeyboard (touch s src) t ∧ FellThrough s t

/-- DIV and IDIV: a divisor of 0 forces quotient and remainder to 0 whatever EDX holds; otherwise the quotient and
remainder of EAX, unsigned or rounded toward zero, where EDX is the extension of EAX; the refusals where it is not, and
where the signed quotient does not fit; the flags by mode (45_multiply_divide.md R158, R161 to R163, 40_flag_module.md
R110). EAX and EDX are the spec's general knowledge (R158, decision D5), the division and its refusals its decisions D28
and D29; the model follows them (log entry 22). -/
def Obligations.Quotients : Prop :=
  ∀ (s : State) (src : Operand), (Instr.div [src]).wf = true → readOk s src = true →
    let v := peek s src
    let a := getReg s .eax
    let rules := fun (t : State) =>
      match s.mode with
      | .teaching => (⟨.kept, zeroOf (getReg t .eax), signOf (getReg t .eax), .kept⟩ : FlagRules)
      | .strict => ⟨.is false, .kept, .kept, .is false⟩
    let frame := fun (t : State) =>
      RegsBut [.eax, .edx] s t ∧ SameMemory s t ∧ FlagsObey (rules t) s.flags t.flags ∧
      SameKeyboard (touch s src) t ∧ FellThrough s t
    (v = 0 → ∀ mk ∈ [Instr.div, Instr.idiv],
      ∃ t, exec (mk [src]) s = .next t ∧ getReg t .eax = 0 ∧ getReg t .edx = 0 ∧ frame t) ∧
    (v ≠ 0 → getReg s .edx = 0 →
      ∃ t, exec (.div [src]) s = .next t ∧
        a.toNat = (getReg t .eax).toNat * v.toNat + (getReg t .edx).toNat ∧ (getReg t .edx).toNat < v.toNat ∧
        frame t) ∧
    (v ≠ 0 → getReg s .edx ≠ 0 → exec (.div [src]) s = .refused .divideDividendUnknown) ∧
    (v ≠ 0 → getReg s .edx = (if a.getLsbD 31 then 0xFFFFFFFF else 0) → ¬(a.toInt = -2 ^ 31 ∧ v.toInt = -1) →
      ∃ t, exec (.idiv [src]) s = .next t ∧ (getReg t .eax).toInt = a.toInt.tdiv v.toInt ∧
        (getReg t .edx).toInt = a.toInt.tmod v.toInt ∧ frame t) ∧
    (v ≠ 0 → getReg s .edx ≠ (if a.getLsbD 31 then 0xFFFFFFFF else 0) →
      exec (.idiv [src]) s = .refused .divideDividendUnknown) ∧
    (getReg s .edx = 0xFFFFFFFF → a.toInt = -2 ^ 31 → v.toInt = -1 →
      exec (.idiv [src]) s = .refused .divideOverflow)

-- ## Strings

/-- LODS, STOS and MOVS: one byte read at ESI or written at EDI, AL or the other byte, and each pointer used raised by 1
modulo 2^32; no flag changes (46_string.md R164 to R167). ESI, EDI and AL are the spec's general knowledge (R164,
decisions D5 and D31); the model follows them (log entry 22). -/
def Obligations.StringMoves : Prop :=
  ∀ s : State,
    (∃ t, exec (.lods []) s = .next t ∧ getReg8 t .al = (memPeek s (getReg s .esi) 1).setWidth 8 ∧
      (∀ i, 8 ≤ i → (getReg t .eax).getLsbD i = (getReg s .eax).getLsbD i) ∧
      (getReg t .esi).toNat = ((getReg s .esi).toNat + 1) % 2 ^ 32 ∧ RegsBut [.eax, .esi] s t ∧ SameMemory s t ∧
      t.flags = s.flags ∧ SameKeyboard (memTouch s (getReg s .esi)) t ∧ FellThrough s t) ∧
    (Invariant s → memWriteOk s (getReg s .edi) 1 = true →
      (∃ t, exec (.stos []) s = .next t ∧ StoredAt s (getReg s .edi) 1 ((getReg8 s .al).setWidth 32) t ∧
        (getReg t .edi).toNat = ((getReg s .edi).toNat + 1) % 2 ^ 32 ∧ RegsBut [.edi] s t ∧ t.flags = s.flags ∧
        SameKeyboard s t ∧ FellThrough s t) ∧
      ∃ t, exec (.movs []) s = .next t ∧
        StoredAt (memTouch s (getReg s .esi)) (getReg s .edi) 1 (memPeek s (getReg s .esi) 1) t ∧
        (getReg t .esi).toNat = ((getReg s .esi).toNat + 1) % 2 ^ 32 ∧
        (getReg t .edi).toNat = ((getReg s .edi).toNat + 1) % 2 ^ 32 ∧ RegsBut [.esi, .edi] s t ∧
        t.flags = s.flags ∧ SameKeyboard (memTouch s (getReg s .esi)) t ∧ FellThrough s t)

/-- SCAS and CMPS: the flags CF and ZF of the byte comparison, SF and OF free, the pointers used raised by 1, nothing
stored; CMPS reads the byte at ESI first (46_string.md R168, R169, 40_flag_module.md R111). AL, ESI, EDI and the order
of the operands are the spec's general knowledge (R164, R168, R169, decisions D5 and D31); the model follows them (log
entry 22). -/
def Obligations.StringCompares : Prop :=
  ∀ s : State,
    let rules := fun a b : Byte => (⟨.is (decide (a.toNat < b.toNat)), .is (a == b), .free, .free⟩ : FlagRules)
    (∃ t, exec (.scas []) s = .next t ∧
      FlagsObey (rules (getReg8 s .al) ((memPeek s (getReg s .edi) 1).setWidth 8)) s.flags t.flags ∧
      (getReg t .edi).toNat = ((getReg s .edi).toNat + 1) % 2 ^ 32 ∧ RegsBut [.edi] s t ∧ SameMemory s t ∧
      SameKeyboard (memTouch s (getReg s .edi)) t ∧ FellThrough s t) ∧
    let s1 := memTouch s (getReg s .esi)
    ∃ t, exec (.cmps []) s = .next t ∧
      FlagsObey (rules ((memPeek s (getReg s .esi) 1).setWidth 8) ((memPeek s1 (getReg s .edi) 1).setWidth 8))
        s.flags t.flags ∧
      (getReg t .esi).toNat = ((getReg s .esi).toNat + 1) % 2 ^ 32 ∧
      (getReg t .edi).toNat = ((getReg s .edi).toNat + 1) % 2 ^ 32 ∧ RegsBut [.esi, .edi] s t ∧ SameMemory s t ∧
      SameKeyboard (memTouch s1 (getReg s .edi)) t ∧ FellThrough s t

-- ## Interrupt and system

/-- INT: the two services that append a character, the one that halts, and every other vector or function, which does
nothing but advance pc; a vector may be any immediate, and a register or memory operand is refused, an 8-bit register by
INT's own rule (log entry 15). INT3 and HLT halt and advance pc; IRET only advances pc (47_interrupt_system.md R170 to
R177). That the characters are those of AL and DL is the spec's general knowledge (R171, R173, decision D32), which the
model follows (log entry 22), and so does it for the code point (log entry 24). -/
def Obligations.InterruptAndSystem : Prop :=
  ∀ (s : State) (v : Word),
    (v = 0x10 → getReg8 s .ah = 0x0E →
      exec (.int [.imm v]) s =
        .next { s with console := s.console ++ [Char.ofNat (getReg8 s .al).toNat], pc := s.pc + 1 }) ∧
    (v = 0x21 → getReg8 s .ah = 0x02 →
      exec (.int [.imm v]) s =
        .next { s with console := s.console ++ [Char.ofNat (getReg8 s .dl).toNat], pc := s.pc + 1 }) ∧
    (v = 0x20 → exec (.int [.imm v]) s = .next { s with halted := true, pc := s.pc + 1 }) ∧
    (¬(v = 0x10 ∧ getReg8 s .ah = 0x0E) → ¬(v = 0x21 ∧ getReg8 s .ah = 0x02) → v ≠ 0x20 →
      exec (.int [.imm v]) s = .next { s with pc := s.pc + 1 }) ∧
    (∀ op : Operand, op.resolved = true → (∀ n, op ≠ .imm n) → exec (.int [op]) s = .refused .formNotAdmitted) ∧
    exec (.int3 []) s = .next { s with halted := true, pc := s.pc + 1 } ∧
    exec (.hlt []) s = .next { s with halted := true, pc := s.pc + 1 } ∧
    exec (.iret []) s = .next { s with pc := s.pc + 1 }

-- ## Control flow

/-- JMP, the twelve Jcc, CALL and RET, whole: JMP goes to its label; a Jcc goes there when its condition holds and falls
through otherwise; CALL also pushes the next index; RET pops it, or falls through on an empty call stack
(48_control_flow.md R184 to R199). The Jcc: JE, JNE, JG, JGE, JL, JLE, JS, JNS, JA, JAE, JB, JBE. The formulas of the
conditions are the spec's general knowledge (40_flag_module.md R112, decision D21); the model follows them (log entry
22). -/
def Obligations.JumpsCallsAndReturns : Prop :=
  (∀ (s : State) (name : Text) (target : Nat), s.labels.lookup name = some target →
    exec (.jmp [name]) s = .next { s with pc := target } ∧
    (∀ p ∈ jumps, exec (p.2 [name]) s = .next { s with pc := if holds p.1 s.flags then target else s.pc + 1 }) ∧
    exec (.call [name]) s = .next { s with pc := target, cs := (s.pc + 1) :: s.cs }) ∧
  ∀ s : State,
    (s.cs = [] → exec (.ret []) s = .next { s with pc := s.pc + 1 }) ∧
    ∀ target rest, s.cs = target :: rest → exec (.ret []) s = .next { s with pc := target, cs := rest }

/-- The LOOP family: ECX is decremented modulo 2^32, and the label is taken when it is then not 0 and, for LOOPE and
LOOPZ, ZF is 1, or, for LOOPNE and LOOPNZ, ZF is 0; nothing else changes (48_control_flow.md R200 to R205). That the
counter is ECX is the spec's general knowledge (R200, decision D5); the model follows it (log entry 22). -/
def Obligations.Loops : Prop :=
  ∀ (s : State) (name : Text) (target : Nat), s.labels.lookup name = some target →
    let result := fun (mk : List Text → Instr) (also : Bool) =>
      ∃ t, exec (mk [name]) s = .next t ∧
        ((getReg t .ecx).toNat : Int) = ((getReg s .ecx).toNat - 1 : Int) % 2 ^ 32 ∧ RegsBut [.ecx] s t ∧
        t.pc = (if getReg s .ecx ≠ 1 ∧ also = true then target else s.pc + 1) ∧
        SameMemory s t ∧ t.flags = s.flags ∧ SameKeyboard s t ∧ SameControl s t
    result .loop true ∧ result .loope (zf s.flags) ∧ result .loopz (zf s.flags) ∧ result .loopne (!zf s.flags) ∧
    result .loopnz (!zf s.flags)

/-- A label that is not in the table is a fault of JMP, every Jcc, CALL and every LOOP, taken or not: the error names the
mnemonic and the label, pc stays, and CALL pushes nothing; RET never meets this fault (48_control_flow.md R183). -/
def Obligations.MissingLabels : Prop :=
  (∀ mk ∈ labelled, ∀ (s : State) (name : Text), s.labels.lookup name = none →
    ∃ t, exec (mk [name]) s = .next t ∧ t.faulted = true ∧
      t.report = .raised (.controlFlowFault (mk [name]).mnemonic name) ∧ t.pc = s.pc ∧ t.cs = s.cs) ∧
  ∀ s : State, ∃ t, exec (.ret []) s = .next t ∧ t.faulted = s.faulted

-- ## Host operations

/-- RESET and LOAD, in every state: the fields each sets, and that each leaves every other (70_reset_and_hazards.md R225,
R226). The report and the draw counter are the model's own (log entries 8 and 9). -/
def Obligations.ResetAndLoad : Prop :=
  ∀ s : State,
    (let t := hostReset s
     (∀ r, getReg t r = if r = .esp then s.cfg.spReset else 0) ∧ t.flags = 0 ∧
     (∀ x, t.bankA.read x = 0 ∧ t.bankB.read x = 0 ∧ t.pixels.read x = 0) ∧ t.kq = [] ∧ t.lastCode = 0 ∧
     t.lastState = 0 ∧ t.pc = 0 ∧ t.cs = [] ∧ t.halted = false ∧ t.faulted = false ∧ t.running = false ∧
     t.mode = s.mode ∧ t.console = s.console ∧ t.bps = s.bps ∧ t.prog = s.prog ∧ t.labels = s.labels) ∧
    ∀ (records : List Record) (labels : List (Text × Nat)),
      let t := hostLoad s records labels
      t.prog = records ∧ t.labels = labels ∧ t.pc = 0 ∧ t.cs = [] ∧ t.halted = false ∧ t.faulted = false ∧
      t.regs = s.regs ∧ t.flags = s.flags ∧ t.bankA = s.bankA ∧ t.bankB = s.bankB ∧ t.pixels = s.pixels ∧
      SameKeyboard s t ∧ t.mode = s.mode ∧ t.console = s.console ∧ t.bps = s.bps ∧ t.running = s.running

/-- EXEC has no stepper: JMP, the Jcc, CALL and RET look up no label and change nothing, and a LOOP decrements ECX
alone, whatever the label table holds (48_control_flow.md R206). The report is the model's own field (log entry 9). -/
def Obligations.ExecWithoutStepper : Prop :=
  ∀ (s : State) (rec : Record) (i : Instr), s.faulted = false → decode rec = .ok i → i.wf = true →
    (i.mnemonic ∈ [.jmp, .je, .jne, .jg, .jge, .jl, .jle, .js, .jns, .ja, .jae, .jb, .jbe, .call, .ret] →
      ∃ r, hostExec s rec = .next { s with report := r }) ∧
    (i.mnemonic ∈ [.loop, .loope, .loopne, .loopz, .loopnz] →
      ∃ t r, hostExec s rec = .next t ∧
        ((getReg t .ecx).toNat : Int) = ((getReg s .ecx).toNat - 1 : Int) % 2 ^ 32 ∧ RegsBut [.ecx] s t ∧
        t = { s with regs := t.regs, report := r })

/-- BP_ADD and BP_REMOVE change the breakpoint set, by one line each, and nothing else (70_reset_and_hazards.md R232,
R233). -/
def Obligations.BreakpointSet : Prop :=
  ∀ (s : State) (line : Int),
    (∀ l, l ∈ (hostBpAdd s line).bps ↔ l = line ∨ l ∈ s.bps) ∧
    (∀ l, l ∈ (hostBpRemove s line).bps ↔ l ∈ s.bps ∧ l ≠ line) ∧
    hostBpAdd s line = { s with bps := (hostBpAdd s line).bps } ∧
    hostBpRemove s line = { s with bps := (hostBpRemove s line).bps }

/-- Every host operation keeps the invariant (70_reset_and_hazards.md R242). The order of the breakpoints in it is the
model's choice (log entry 20), and that an EXEC that faults in the Halted state leaves it is the model's reading of
10_state.md R29 (log entry 18). After a STEP or EXEC that ends in MemoryOutOfRange or ControlFlowFault, 60_exceptions.md
R210 leaves flags, memory and devices unspecified, and that the reserved flag bits, the keystate and the sizes of the
memories are as 10_state.md R26 and R34 to R36 say is the model's reading (log entry 6). That WRITE_IO takes every
integer is its reading of 20_memory.md R61 (log entry 25). -/
def Obligations.HostInvariantKept : Prop :=
  ∀ (op : HostOp) (s t : State) (r : HostResult), Invariant s → hostStep op s = .next (t, r) → Invariant t
end

