-- ==== Sys2Proof/Laws/Memory.lean ====
section
/-! SUPPORT. The laws of a byte array: a read gives what the last write to that index left, and every operation keeps
the canonical form and the bound. -/

namespace Sys2Proof.Machine

theorem Memory.wf_nil : Memory.wf [] := by simp [Memory.wf]

theorem Memory.wf_cons {k : Nat} {v : Byte} {m : Memory} :
    Memory.wf ((k, v) :: m) ↔ (∀ c ∈ m, k < c.1) ∧ v ≠ 0 ∧ Memory.wf m := by
  simp only [Memory.wf, List.map_cons, List.pairwise_cons, List.mem_map, List.mem_cons]
  constructor
  · rintro ⟨⟨h1, h2⟩, h3⟩
    exact ⟨fun c hc => h1 _ ⟨c, hc, rfl⟩, h3 _ (Or.inl rfl), h2, fun c hc => h3 c (Or.inr hc)⟩
  · rintro ⟨h1, h2, h3, h4⟩
    refine ⟨⟨?_, h3⟩, ?_⟩
    · rintro _ ⟨c, hc, rfl⟩
      exact h1 c hc
    · rintro c (rfl | hc)
      · exact h2
      · exact h4 c hc

/-- An index below every listed one reads as 0. -/
theorem Memory.read_eq_zero {m : Memory} {a : Nat} (h : ∀ c ∈ m, a < c.1) : m.read a = 0 := by
  induction m with
  | nil => rfl
  | cons c m ih =>
    obtain ⟨k, v⟩ := c
    have hk : a < k := h _ List.mem_cons_self
    simp only [Memory.read, if_neg hk.ne]
    exact ih fun c hc => h c (List.mem_cons_of_mem _ hc)

/-- What a write lists: the new entry or one that was there. -/
theorem Memory.mem_write {m : Memory} {a : Nat} {b : Byte} {c : Nat × Byte} (h : c ∈ m.write a b) :
    (c = (a, b) ∧ b ≠ 0) ∨ c ∈ m := by
  induction m with
  | nil =>
    simp only [Memory.write] at h
    split at h <;> simp_all
  | cons d m ih =>
    obtain ⟨k, v⟩ := d
    simp only [Memory.write] at h
    split at h
    · split at h <;> simp_all
    · split at h
      · split at h <;> simp_all
        tauto
      · rcases List.mem_cons.mp h with h | h
        · exact Or.inr (h ▸ List.mem_cons_self)
        · exact (ih h).imp id (List.mem_cons_of_mem _)

/-- A write keeps the canonical form. -/
theorem Memory.write_wf {m : Memory} (h : m.wf) (a : Nat) (b : Byte) : (m.write a b).wf := by
  induction m with
  | nil =>
    simp only [Memory.write]
    split
    · exact Memory.wf_nil
    · exact Memory.wf_cons.mpr ⟨by simp, ‹_›, Memory.wf_nil⟩
  | cons d m ih =>
    obtain ⟨k, v⟩ := d
    obtain ⟨hk, hv, hm⟩ := Memory.wf_cons.mp h
    simp only [Memory.write]
    split
    · split
      · exact h
      · refine Memory.wf_cons.mpr ⟨?_, ‹_›, h⟩
        intro c hc
        rcases List.mem_cons.mp hc with rfl | hc
        · assumption
        · exact lt_trans ‹_› (hk c hc)
    · split
      · subst a
        split
        · exact hm
        · exact Memory.wf_cons.mpr ⟨hk, ‹_›, hm⟩
      · refine Memory.wf_cons.mpr ⟨?_, hv, ih hm⟩
        intro c hc
        rcases Memory.mem_write hc with ⟨rfl, -⟩ | hc
        · show k < a
          omega
        · exact hk c hc

/-- A read after a write at the same index gives the byte written. -/
theorem Memory.read_write_same {m : Memory} (h : m.wf) (a : Nat) (b : Byte) : (m.write a b).read a = b := by
  induction m with
  | nil =>
    simp only [Memory.write]
    split <;> simp_all [Memory.read]
  | cons d m ih =>
    obtain ⟨k, v⟩ := d
    obtain ⟨hk, hv, hm⟩ := Memory.wf_cons.mp h
    simp only [Memory.write]
    split
    · have : ∀ c ∈ (k, v) :: m, a < c.1 := by
        intro c hc
        rcases List.mem_cons.mp hc with rfl | hc
        · assumption
        · exact lt_trans ‹_› (hk c hc)
      split
      · rw [Memory.read_eq_zero this]
        exact Eq.symm ‹_›
      · simp [Memory.read]
    · split
      · subst a
        split
        · rw [Memory.read_eq_zero hk]
          exact Eq.symm ‹_›
        · simp [Memory.read]
      · simp only [Memory.read, if_neg ‹¬a = k›]
        exact ih hm

/-- A write leaves every other index alone. -/
theorem Memory.read_write_other (m : Memory) {a x : Nat} (b : Byte) (hx : x ≠ a) :
    (m.write a b).read x = m.read x := by
  induction m with
  | nil =>
    simp only [Memory.write]
    split <;> simp [Memory.read, hx]
  | cons d m ih =>
    obtain ⟨k, v⟩ := d
    simp only [Memory.write]
    split
    · split <;> simp [Memory.read, hx]
    · split
      · subst a
        split <;> simp [Memory.read, hx]
      · simp only [Memory.read, ih]

/-- A write below a bound stays below it. -/
theorem Memory.write_below {m : Memory} {n : Nat} (h : m.below n) {a : Nat} (ha : a < n) (b : Byte) :
    (m.write a b).below n := by
  intro c hc
  rcases Memory.mem_write hc with ⟨rfl, -⟩ | hc
  · exact ha
  · exact h c hc

/-- Writing several bytes keeps the canonical form. -/
theorem Memory.writeBytes_wf {m : Memory} (h : m.wf) (a n : Nat) (v : Word) : (m.writeBytes a n v).wf := by
  induction n generalizing m a v with
  | zero => exact h
  | succ n ih => exact ih (Memory.write_wf h _ _) _ _

/-- Writing several bytes below a bound stays below it. -/
theorem Memory.writeBytes_below {m : Memory} {bound : Nat} (h : m.below bound) {a n : Nat} (hn : a + n ≤ bound)
    (v : Word) : (m.writeBytes a n v).below bound := by
  induction n generalizing m a v with
  | zero => exact h
  | succ n ih => exact ih (Memory.write_below h (by omega) _) (by omega) _

/-- Writing several bytes leaves every index outside them alone. -/
theorem Memory.read_writeBytes_other (m : Memory) (a n : Nat) (v : Word) {x : Nat} (hx : x < a ∨ a + n ≤ x) :
    (m.writeBytes a n v).read x = m.read x := by
  induction n generalizing m a v with
  | zero => rfl
  | succ n ih =>
    rw [Memory.writeBytes, ih _ _ _ (by omega), Memory.read_write_other _ _ (by omega)]

/-- A byte array made of any entries is canonical. -/
theorem Memory.ofCells_wf (bound : Nat) (l : List (Nat × Byte)) : (Memory.ofCells bound l).wf := by
  induction l with
  | nil => exact Memory.wf_nil
  | cons c l ih =>
    obtain ⟨a, b⟩ := c
    simp only [Memory.ofCells]
    split
    · exact Memory.write_wf ih _ _
    · exact ih

/-- A byte array made of any entries stays below its bound. -/
theorem Memory.ofCells_below (bound : Nat) (l : List (Nat × Byte)) : (Memory.ofCells bound l).below bound := by
  induction l with
  | nil => simp [Memory.ofCells]
  | cons c l ih =>
    obtain ⟨a, b⟩ := c
    simp only [Memory.ofCells]
    split
    · exact Memory.write_below ih ‹_› _
    · exact ih

end Sys2Proof.Machine
end

