-- ==== Sys2Proof/Laws/State.lean ====
section
/-! SUPPORT. What each named update does to each field of the state. -/

namespace Sys2Proof.Machine

variable (s : State)

-- ## setReg
@[simp] theorem setReg_cfg (r : Reg32) (v : Word) : (setReg s r v).cfg = s.cfg := rfl
@[simp] theorem setReg_regs (r : Reg32) (v : Word) : (setReg s r v).regs = s.regs.set r v := rfl
@[simp] theorem setReg_flags (r : Reg32) (v : Word) : (setReg s r v).flags = s.flags := rfl
@[simp] theorem setReg_pc (r : Reg32) (v : Word) : (setReg s r v).pc = s.pc := rfl
@[simp] theorem setReg_cs (r : Reg32) (v : Word) : (setReg s r v).cs = s.cs := rfl
@[simp] theorem setReg_halted (r : Reg32) (v : Word) : (setReg s r v).halted = s.halted := rfl
@[simp] theorem setReg_faulted (r : Reg32) (v : Word) : (setReg s r v).faulted = s.faulted := rfl
@[simp] theorem setReg_running (r : Reg32) (v : Word) : (setReg s r v).running = s.running := rfl
@[simp] theorem setReg_mode (r : Reg32) (v : Word) : (setReg s r v).mode = s.mode := rfl
@[simp] theorem setReg_bankA (r : Reg32) (v : Word) : (setReg s r v).bankA = s.bankA := rfl
@[simp] theorem setReg_bankB (r : Reg32) (v : Word) : (setReg s r v).bankB = s.bankB := rfl
@[simp] theorem setReg_pixels (r : Reg32) (v : Word) : (setReg s r v).pixels = s.pixels := rfl
@[simp] theorem setReg_kq (r : Reg32) (v : Word) : (setReg s r v).kq = s.kq := rfl
@[simp] theorem setReg_lastCode (r : Reg32) (v : Word) : (setReg s r v).lastCode = s.lastCode := rfl
@[simp] theorem setReg_lastState (r : Reg32) (v : Word) : (setReg s r v).lastState = s.lastState := rfl
@[simp] theorem setReg_console (r : Reg32) (v : Word) : (setReg s r v).console = s.console := rfl
@[simp] theorem setReg_bps (r : Reg32) (v : Word) : (setReg s r v).bps = s.bps := rfl
@[simp] theorem setReg_prog (r : Reg32) (v : Word) : (setReg s r v).prog = s.prog := rfl
@[simp] theorem setReg_labels (r : Reg32) (v : Word) : (setReg s r v).labels = s.labels := rfl
@[simp] theorem setReg_draws (r : Reg32) (v : Word) : (setReg s r v).draws = s.draws := rfl
@[simp] theorem setReg_report (r : Reg32) (v : Word) : (setReg s r v).report = s.report := rfl

-- ## setReg8
@[simp] theorem setReg8_cfg (r : Reg8) (b : Byte) : (setReg8 s r b).cfg = s.cfg := rfl
@[simp] theorem setReg8_regs (r : Reg8) (b : Byte) : (setReg8 s r b).regs = s.regs.set (reg8Parent r) (putByte (getReg s (reg8Parent r)) (reg8Offset r) b) := rfl
@[simp] theorem setReg8_flags (r : Reg8) (b : Byte) : (setReg8 s r b).flags = s.flags := rfl
@[simp] theorem setReg8_pc (r : Reg8) (b : Byte) : (setReg8 s r b).pc = s.pc := rfl
@[simp] theorem setReg8_cs (r : Reg8) (b : Byte) : (setReg8 s r b).cs = s.cs := rfl
@[simp] theorem setReg8_halted (r : Reg8) (b : Byte) : (setReg8 s r b).halted = s.halted := rfl
@[simp] theorem setReg8_faulted (r : Reg8) (b : Byte) : (setReg8 s r b).faulted = s.faulted := rfl
@[simp] theorem setReg8_running (r : Reg8) (b : Byte) : (setReg8 s r b).running = s.running := rfl
@[simp] theorem setReg8_mode (r : Reg8) (b : Byte) : (setReg8 s r b).mode = s.mode := rfl
@[simp] theorem setReg8_bankA (r : Reg8) (b : Byte) : (setReg8 s r b).bankA = s.bankA := rfl
@[simp] theorem setReg8_bankB (r : Reg8) (b : Byte) : (setReg8 s r b).bankB = s.bankB := rfl
@[simp] theorem setReg8_pixels (r : Reg8) (b : Byte) : (setReg8 s r b).pixels = s.pixels := rfl
@[simp] theorem setReg8_kq (r : Reg8) (b : Byte) : (setReg8 s r b).kq = s.kq := rfl
@[simp] theorem setReg8_lastCode (r : Reg8) (b : Byte) : (setReg8 s r b).lastCode = s.lastCode := rfl
@[simp] theorem setReg8_lastState (r : Reg8) (b : Byte) : (setReg8 s r b).lastState = s.lastState := rfl
@[simp] theorem setReg8_console (r : Reg8) (b : Byte) : (setReg8 s r b).console = s.console := rfl
@[simp] theorem setReg8_bps (r : Reg8) (b : Byte) : (setReg8 s r b).bps = s.bps := rfl
@[simp] theorem setReg8_prog (r : Reg8) (b : Byte) : (setReg8 s r b).prog = s.prog := rfl
@[simp] theorem setReg8_labels (r : Reg8) (b : Byte) : (setReg8 s r b).labels = s.labels := rfl
@[simp] theorem setReg8_draws (r : Reg8) (b : Byte) : (setReg8 s r b).draws = s.draws := rfl
@[simp] theorem setReg8_report (r : Reg8) (b : Byte) : (setReg8 s r b).report = s.report := rfl

-- ## setFlags
@[simp] theorem setFlags_cfg (f : Word) : (setFlags s f).cfg = s.cfg := rfl
@[simp] theorem setFlags_regs (f : Word) : (setFlags s f).regs = s.regs := rfl
@[simp] theorem setFlags_flags (f : Word) : (setFlags s f).flags = f := rfl
@[simp] theorem setFlags_pc (f : Word) : (setFlags s f).pc = s.pc := rfl
@[simp] theorem setFlags_cs (f : Word) : (setFlags s f).cs = s.cs := rfl
@[simp] theorem setFlags_halted (f : Word) : (setFlags s f).halted = s.halted := rfl
@[simp] theorem setFlags_faulted (f : Word) : (setFlags s f).faulted = s.faulted := rfl
@[simp] theorem setFlags_running (f : Word) : (setFlags s f).running = s.running := rfl
@[simp] theorem setFlags_mode (f : Word) : (setFlags s f).mode = s.mode := rfl
@[simp] theorem setFlags_bankA (f : Word) : (setFlags s f).bankA = s.bankA := rfl
@[simp] theorem setFlags_bankB (f : Word) : (setFlags s f).bankB = s.bankB := rfl
@[simp] theorem setFlags_pixels (f : Word) : (setFlags s f).pixels = s.pixels := rfl
@[simp] theorem setFlags_kq (f : Word) : (setFlags s f).kq = s.kq := rfl
@[simp] theorem setFlags_lastCode (f : Word) : (setFlags s f).lastCode = s.lastCode := rfl
@[simp] theorem setFlags_lastState (f : Word) : (setFlags s f).lastState = s.lastState := rfl
@[simp] theorem setFlags_console (f : Word) : (setFlags s f).console = s.console := rfl
@[simp] theorem setFlags_bps (f : Word) : (setFlags s f).bps = s.bps := rfl
@[simp] theorem setFlags_prog (f : Word) : (setFlags s f).prog = s.prog := rfl
@[simp] theorem setFlags_labels (f : Word) : (setFlags s f).labels = s.labels := rfl
@[simp] theorem setFlags_draws (f : Word) : (setFlags s f).draws = s.draws := rfl
@[simp] theorem setFlags_report (f : Word) : (setFlags s f).report = s.report := rfl

-- ## setPc
@[simp] theorem setPc_cfg (n : Nat) : (setPc s n).cfg = s.cfg := rfl
@[simp] theorem setPc_regs (n : Nat) : (setPc s n).regs = s.regs := rfl
@[simp] theorem setPc_flags (n : Nat) : (setPc s n).flags = s.flags := rfl
@[simp] theorem setPc_pc (n : Nat) : (setPc s n).pc = n := rfl
@[simp] theorem setPc_cs (n : Nat) : (setPc s n).cs = s.cs := rfl
@[simp] theorem setPc_halted (n : Nat) : (setPc s n).halted = s.halted := rfl
@[simp] theorem setPc_faulted (n : Nat) : (setPc s n).faulted = s.faulted := rfl
@[simp] theorem setPc_running (n : Nat) : (setPc s n).running = s.running := rfl
@[simp] theorem setPc_mode (n : Nat) : (setPc s n).mode = s.mode := rfl
@[simp] theorem setPc_bankA (n : Nat) : (setPc s n).bankA = s.bankA := rfl
@[simp] theorem setPc_bankB (n : Nat) : (setPc s n).bankB = s.bankB := rfl
@[simp] theorem setPc_pixels (n : Nat) : (setPc s n).pixels = s.pixels := rfl
@[simp] theorem setPc_kq (n : Nat) : (setPc s n).kq = s.kq := rfl
@[simp] theorem setPc_lastCode (n : Nat) : (setPc s n).lastCode = s.lastCode := rfl
@[simp] theorem setPc_lastState (n : Nat) : (setPc s n).lastState = s.lastState := rfl
@[simp] theorem setPc_console (n : Nat) : (setPc s n).console = s.console := rfl
@[simp] theorem setPc_bps (n : Nat) : (setPc s n).bps = s.bps := rfl
@[simp] theorem setPc_prog (n : Nat) : (setPc s n).prog = s.prog := rfl
@[simp] theorem setPc_labels (n : Nat) : (setPc s n).labels = s.labels := rfl
@[simp] theorem setPc_draws (n : Nat) : (setPc s n).draws = s.draws := rfl
@[simp] theorem setPc_report (n : Nat) : (setPc s n).report = s.report := rfl

-- ## setCs
@[simp] theorem setCs_cfg (l : List Nat) : (setCs s l).cfg = s.cfg := rfl
@[simp] theorem setCs_regs (l : List Nat) : (setCs s l).regs = s.regs := rfl
@[simp] theorem setCs_flags (l : List Nat) : (setCs s l).flags = s.flags := rfl
@[simp] theorem setCs_pc (l : List Nat) : (setCs s l).pc = s.pc := rfl
@[simp] theorem setCs_cs (l : List Nat) : (setCs s l).cs = l := rfl
@[simp] theorem setCs_halted (l : List Nat) : (setCs s l).halted = s.halted := rfl
@[simp] theorem setCs_faulted (l : List Nat) : (setCs s l).faulted = s.faulted := rfl
@[simp] theorem setCs_running (l : List Nat) : (setCs s l).running = s.running := rfl
@[simp] theorem setCs_mode (l : List Nat) : (setCs s l).mode = s.mode := rfl
@[simp] theorem setCs_bankA (l : List Nat) : (setCs s l).bankA = s.bankA := rfl
@[simp] theorem setCs_bankB (l : List Nat) : (setCs s l).bankB = s.bankB := rfl
@[simp] theorem setCs_pixels (l : List Nat) : (setCs s l).pixels = s.pixels := rfl
@[simp] theorem setCs_kq (l : List Nat) : (setCs s l).kq = s.kq := rfl
@[simp] theorem setCs_lastCode (l : List Nat) : (setCs s l).lastCode = s.lastCode := rfl
@[simp] theorem setCs_lastState (l : List Nat) : (setCs s l).lastState = s.lastState := rfl
@[simp] theorem setCs_console (l : List Nat) : (setCs s l).console = s.console := rfl
@[simp] theorem setCs_bps (l : List Nat) : (setCs s l).bps = s.bps := rfl
@[simp] theorem setCs_prog (l : List Nat) : (setCs s l).prog = s.prog := rfl
@[simp] theorem setCs_labels (l : List Nat) : (setCs s l).labels = s.labels := rfl
@[simp] theorem setCs_draws (l : List Nat) : (setCs s l).draws = s.draws := rfl
@[simp] theorem setCs_report (l : List Nat) : (setCs s l).report = s.report := rfl

-- ## halt
@[simp] theorem halt_cfg : (halt s).cfg = s.cfg := rfl
@[simp] theorem halt_regs : (halt s).regs = s.regs := rfl
@[simp] theorem halt_flags : (halt s).flags = s.flags := rfl
@[simp] theorem halt_pc : (halt s).pc = s.pc := rfl
@[simp] theorem halt_cs : (halt s).cs = s.cs := rfl
@[simp] theorem halt_halted : (halt s).halted = true := rfl
@[simp] theorem halt_faulted : (halt s).faulted = s.faulted := rfl
@[simp] theorem halt_running : (halt s).running = s.running := rfl
@[simp] theorem halt_mode : (halt s).mode = s.mode := rfl
@[simp] theorem halt_bankA : (halt s).bankA = s.bankA := rfl
@[simp] theorem halt_bankB : (halt s).bankB = s.bankB := rfl
@[simp] theorem halt_pixels : (halt s).pixels = s.pixels := rfl
@[simp] theorem halt_kq : (halt s).kq = s.kq := rfl
@[simp] theorem halt_lastCode : (halt s).lastCode = s.lastCode := rfl
@[simp] theorem halt_lastState : (halt s).lastState = s.lastState := rfl
@[simp] theorem halt_console : (halt s).console = s.console := rfl
@[simp] theorem halt_bps : (halt s).bps = s.bps := rfl
@[simp] theorem halt_prog : (halt s).prog = s.prog := rfl
@[simp] theorem halt_labels : (halt s).labels = s.labels := rfl
@[simp] theorem halt_draws : (halt s).draws = s.draws := rfl
@[simp] theorem halt_report : (halt s).report = s.report := rfl

-- ## setBankA
@[simp] theorem setBankA_cfg (m : Memory) : (setBankA s m).cfg = s.cfg := rfl
@[simp] theorem setBankA_regs (m : Memory) : (setBankA s m).regs = s.regs := rfl
@[simp] theorem setBankA_flags (m : Memory) : (setBankA s m).flags = s.flags := rfl
@[simp] theorem setBankA_pc (m : Memory) : (setBankA s m).pc = s.pc := rfl
@[simp] theorem setBankA_cs (m : Memory) : (setBankA s m).cs = s.cs := rfl
@[simp] theorem setBankA_halted (m : Memory) : (setBankA s m).halted = s.halted := rfl
@[simp] theorem setBankA_faulted (m : Memory) : (setBankA s m).faulted = s.faulted := rfl
@[simp] theorem setBankA_running (m : Memory) : (setBankA s m).running = s.running := rfl
@[simp] theorem setBankA_mode (m : Memory) : (setBankA s m).mode = s.mode := rfl
@[simp] theorem setBankA_bankA (m : Memory) : (setBankA s m).bankA = m := rfl
@[simp] theorem setBankA_bankB (m : Memory) : (setBankA s m).bankB = s.bankB := rfl
@[simp] theorem setBankA_pixels (m : Memory) : (setBankA s m).pixels = s.pixels := rfl
@[simp] theorem setBankA_kq (m : Memory) : (setBankA s m).kq = s.kq := rfl
@[simp] theorem setBankA_lastCode (m : Memory) : (setBankA s m).lastCode = s.lastCode := rfl
@[simp] theorem setBankA_lastState (m : Memory) : (setBankA s m).lastState = s.lastState := rfl
@[simp] theorem setBankA_console (m : Memory) : (setBankA s m).console = s.console := rfl
@[simp] theorem setBankA_bps (m : Memory) : (setBankA s m).bps = s.bps := rfl
@[simp] theorem setBankA_prog (m : Memory) : (setBankA s m).prog = s.prog := rfl
@[simp] theorem setBankA_labels (m : Memory) : (setBankA s m).labels = s.labels := rfl
@[simp] theorem setBankA_draws (m : Memory) : (setBankA s m).draws = s.draws := rfl
@[simp] theorem setBankA_report (m : Memory) : (setBankA s m).report = s.report := rfl

-- ## setPixels
@[simp] theorem setPixels_cfg (m : Memory) : (setPixels s m).cfg = s.cfg := rfl
@[simp] theorem setPixels_regs (m : Memory) : (setPixels s m).regs = s.regs := rfl
@[simp] theorem setPixels_flags (m : Memory) : (setPixels s m).flags = s.flags := rfl
@[simp] theorem setPixels_pc (m : Memory) : (setPixels s m).pc = s.pc := rfl
@[simp] theorem setPixels_cs (m : Memory) : (setPixels s m).cs = s.cs := rfl
@[simp] theorem setPixels_halted (m : Memory) : (setPixels s m).halted = s.halted := rfl
@[simp] theorem setPixels_faulted (m : Memory) : (setPixels s m).faulted = s.faulted := rfl
@[simp] theorem setPixels_running (m : Memory) : (setPixels s m).running = s.running := rfl
@[simp] theorem setPixels_mode (m : Memory) : (setPixels s m).mode = s.mode := rfl
@[simp] theorem setPixels_bankA (m : Memory) : (setPixels s m).bankA = s.bankA := rfl
@[simp] theorem setPixels_bankB (m : Memory) : (setPixels s m).bankB = s.bankB := rfl
@[simp] theorem setPixels_pixels (m : Memory) : (setPixels s m).pixels = m := rfl
@[simp] theorem setPixels_kq (m : Memory) : (setPixels s m).kq = s.kq := rfl
@[simp] theorem setPixels_lastCode (m : Memory) : (setPixels s m).lastCode = s.lastCode := rfl
@[simp] theorem setPixels_lastState (m : Memory) : (setPixels s m).lastState = s.lastState := rfl
@[simp] theorem setPixels_console (m : Memory) : (setPixels s m).console = s.console := rfl
@[simp] theorem setPixels_bps (m : Memory) : (setPixels s m).bps = s.bps := rfl
@[simp] theorem setPixels_prog (m : Memory) : (setPixels s m).prog = s.prog := rfl
@[simp] theorem setPixels_labels (m : Memory) : (setPixels s m).labels = s.labels := rfl
@[simp] theorem setPixels_draws (m : Memory) : (setPixels s m).draws = s.draws := rfl
@[simp] theorem setPixels_report (m : Memory) : (setPixels s m).report = s.report := rfl

-- ## say
@[simp] theorem say_cfg (c : Char) : (say s c).cfg = s.cfg := rfl
@[simp] theorem say_regs (c : Char) : (say s c).regs = s.regs := rfl
@[simp] theorem say_flags (c : Char) : (say s c).flags = s.flags := rfl
@[simp] theorem say_pc (c : Char) : (say s c).pc = s.pc := rfl
@[simp] theorem say_cs (c : Char) : (say s c).cs = s.cs := rfl
@[simp] theorem say_halted (c : Char) : (say s c).halted = s.halted := rfl
@[simp] theorem say_faulted (c : Char) : (say s c).faulted = s.faulted := rfl
@[simp] theorem say_running (c : Char) : (say s c).running = s.running := rfl
@[simp] theorem say_mode (c : Char) : (say s c).mode = s.mode := rfl
@[simp] theorem say_bankA (c : Char) : (say s c).bankA = s.bankA := rfl
@[simp] theorem say_bankB (c : Char) : (say s c).bankB = s.bankB := rfl
@[simp] theorem say_pixels (c : Char) : (say s c).pixels = s.pixels := rfl
@[simp] theorem say_kq (c : Char) : (say s c).kq = s.kq := rfl
@[simp] theorem say_lastCode (c : Char) : (say s c).lastCode = s.lastCode := rfl
@[simp] theorem say_lastState (c : Char) : (say s c).lastState = s.lastState := rfl
@[simp] theorem say_console (c : Char) : (say s c).console = s.console ++ [c] := rfl
@[simp] theorem say_bps (c : Char) : (say s c).bps = s.bps := rfl
@[simp] theorem say_prog (c : Char) : (say s c).prog = s.prog := rfl
@[simp] theorem say_labels (c : Char) : (say s c).labels = s.labels := rfl
@[simp] theorem say_draws (c : Char) : (say s c).draws = s.draws := rfl
@[simp] theorem say_report (c : Char) : (say s c).report = s.report := rfl

-- ## setReport
@[simp] theorem setReport_cfg (r : Report) : (setReport s r).cfg = s.cfg := rfl
@[simp] theorem setReport_regs (r : Report) : (setReport s r).regs = s.regs := rfl
@[simp] theorem setReport_flags (r : Report) : (setReport s r).flags = s.flags := rfl
@[simp] theorem setReport_pc (r : Report) : (setReport s r).pc = s.pc := rfl
@[simp] theorem setReport_cs (r : Report) : (setReport s r).cs = s.cs := rfl
@[simp] theorem setReport_halted (r : Report) : (setReport s r).halted = s.halted := rfl
@[simp] theorem setReport_faulted (r : Report) : (setReport s r).faulted = s.faulted := rfl
@[simp] theorem setReport_running (r : Report) : (setReport s r).running = s.running := rfl
@[simp] theorem setReport_mode (r : Report) : (setReport s r).mode = s.mode := rfl
@[simp] theorem setReport_bankA (r : Report) : (setReport s r).bankA = s.bankA := rfl
@[simp] theorem setReport_bankB (r : Report) : (setReport s r).bankB = s.bankB := rfl
@[simp] theorem setReport_pixels (r : Report) : (setReport s r).pixels = s.pixels := rfl
@[simp] theorem setReport_kq (r : Report) : (setReport s r).kq = s.kq := rfl
@[simp] theorem setReport_lastCode (r : Report) : (setReport s r).lastCode = s.lastCode := rfl
@[simp] theorem setReport_lastState (r : Report) : (setReport s r).lastState = s.lastState := rfl
@[simp] theorem setReport_console (r : Report) : (setReport s r).console = s.console := rfl
@[simp] theorem setReport_bps (r : Report) : (setReport s r).bps = s.bps := rfl
@[simp] theorem setReport_prog (r : Report) : (setReport s r).prog = s.prog := rfl
@[simp] theorem setReport_labels (r : Report) : (setReport s r).labels = s.labels := rfl
@[simp] theorem setReport_draws (r : Report) : (setReport s r).draws = s.draws := rfl
@[simp] theorem setReport_report (r : Report) : (setReport s r).report = r := rfl

-- ## addDraws
@[simp] theorem addDraws_cfg (n : Nat) : (addDraws s n).cfg = s.cfg := rfl
@[simp] theorem addDraws_regs (n : Nat) : (addDraws s n).regs = s.regs := rfl
@[simp] theorem addDraws_flags (n : Nat) : (addDraws s n).flags = s.flags := rfl
@[simp] theorem addDraws_pc (n : Nat) : (addDraws s n).pc = s.pc := rfl
@[simp] theorem addDraws_cs (n : Nat) : (addDraws s n).cs = s.cs := rfl
@[simp] theorem addDraws_halted (n : Nat) : (addDraws s n).halted = s.halted := rfl
@[simp] theorem addDraws_faulted (n : Nat) : (addDraws s n).faulted = s.faulted := rfl
@[simp] theorem addDraws_running (n : Nat) : (addDraws s n).running = s.running := rfl
@[simp] theorem addDraws_mode (n : Nat) : (addDraws s n).mode = s.mode := rfl
@[simp] theorem addDraws_bankA (n : Nat) : (addDraws s n).bankA = s.bankA := rfl
@[simp] theorem addDraws_bankB (n : Nat) : (addDraws s n).bankB = s.bankB := rfl
@[simp] theorem addDraws_pixels (n : Nat) : (addDraws s n).pixels = s.pixels := rfl
@[simp] theorem addDraws_kq (n : Nat) : (addDraws s n).kq = s.kq := rfl
@[simp] theorem addDraws_lastCode (n : Nat) : (addDraws s n).lastCode = s.lastCode := rfl
@[simp] theorem addDraws_lastState (n : Nat) : (addDraws s n).lastState = s.lastState := rfl
@[simp] theorem addDraws_console (n : Nat) : (addDraws s n).console = s.console := rfl
@[simp] theorem addDraws_bps (n : Nat) : (addDraws s n).bps = s.bps := rfl
@[simp] theorem addDraws_prog (n : Nat) : (addDraws s n).prog = s.prog := rfl
@[simp] theorem addDraws_labels (n : Nat) : (addDraws s n).labels = s.labels := rfl
@[simp] theorem addDraws_draws (n : Nat) : (addDraws s n).draws = s.draws + n := rfl
@[simp] theorem addDraws_report (n : Nat) : (addDraws s n).report = s.report := rfl

-- ## popEvent
@[simp] theorem popEvent_cfg (e : Byte × Bool) (l : List (Byte × Bool)) : (popEvent s e l).cfg = s.cfg := rfl
@[simp] theorem popEvent_regs (e : Byte × Bool) (l : List (Byte × Bool)) : (popEvent s e l).regs = s.regs := rfl
@[simp] theorem popEvent_flags (e : Byte × Bool) (l : List (Byte × Bool)) : (popEvent s e l).flags = s.flags := rfl
@[simp] theorem popEvent_pc (e : Byte × Bool) (l : List (Byte × Bool)) : (popEvent s e l).pc = s.pc := rfl
@[simp] theorem popEvent_cs (e : Byte × Bool) (l : List (Byte × Bool)) : (popEvent s e l).cs = s.cs := rfl
@[simp] theorem popEvent_halted (e : Byte × Bool) (l : List (Byte × Bool)) : (popEvent s e l).halted = s.halted := rfl
@[simp] theorem popEvent_faulted (e : Byte × Bool) (l : List (Byte × Bool)) : (popEvent s e l).faulted = s.faulted := rfl
@[simp] theorem popEvent_running (e : Byte × Bool) (l : List (Byte × Bool)) : (popEvent s e l).running = s.running := rfl
@[simp] theorem popEvent_mode (e : Byte × Bool) (l : List (Byte × Bool)) : (popEvent s e l).mode = s.mode := rfl
@[simp] theorem popEvent_bankA (e : Byte × Bool) (l : List (Byte × Bool)) : (popEvent s e l).bankA = s.bankA := rfl
@[simp] theorem popEvent_bankB (e : Byte × Bool) (l : List (Byte × Bool)) : (popEvent s e l).bankB = s.bankB := rfl
@[simp] theorem popEvent_pixels (e : Byte × Bool) (l : List (Byte × Bool)) : (popEvent s e l).pixels = s.pixels := rfl
@[simp] theorem popEvent_kq (e : Byte × Bool) (l : List (Byte × Bool)) : (popEvent s e l).kq = l := rfl
@[simp] theorem popEvent_lastCode (e : Byte × Bool) (l : List (Byte × Bool)) : (popEvent s e l).lastCode = e.1 := rfl
@[simp] theorem popEvent_lastState (e : Byte × Bool) (l : List (Byte × Bool)) : (popEvent s e l).lastState = if e.2 then 1 else 0 := rfl
@[simp] theorem popEvent_console (e : Byte × Bool) (l : List (Byte × Bool)) : (popEvent s e l).console = s.console := rfl
@[simp] theorem popEvent_bps (e : Byte × Bool) (l : List (Byte × Bool)) : (popEvent s e l).bps = s.bps := rfl
@[simp] theorem popEvent_prog (e : Byte × Bool) (l : List (Byte × Bool)) : (popEvent s e l).prog = s.prog := rfl
@[simp] theorem popEvent_labels (e : Byte × Bool) (l : List (Byte × Bool)) : (popEvent s e l).labels = s.labels := rfl
@[simp] theorem popEvent_draws (e : Byte × Bool) (l : List (Byte × Bool)) : (popEvent s e l).draws = s.draws := rfl
@[simp] theorem popEvent_report (e : Byte × Bool) (l : List (Byte × Bool)) : (popEvent s e l).report = s.report := rfl

-- ## takeFault: what a fault keeps (60_exceptions.md R209)
@[simp] theorem takeFault_faulted (e : EngineFault) : (takeFault e s).faulted = true := by
  simp [takeFault]
@[simp] theorem takeFault_halted (e : EngineFault) : (takeFault e s).halted = false := by
  simp [takeFault]
@[simp] theorem takeFault_report (e : EngineFault) : (takeFault e s).report = .raised e := by
  simp [takeFault]
@[simp] theorem takeFault_cfg (e : EngineFault) : (takeFault e s).cfg = s.cfg := by
  unfold takeFault freeState
  split <;> rfl
@[simp] theorem takeFault_pc (e : EngineFault) : (takeFault e s).pc = s.pc := by
  unfold takeFault freeState
  split <;> rfl
@[simp] theorem takeFault_cs (e : EngineFault) : (takeFault e s).cs = s.cs := by
  unfold takeFault freeState
  split <;> rfl
@[simp] theorem takeFault_running (e : EngineFault) : (takeFault e s).running = s.running := by
  unfold takeFault freeState
  split <;> rfl
@[simp] theorem takeFault_mode (e : EngineFault) : (takeFault e s).mode = s.mode := by
  unfold takeFault freeState
  split <;> rfl
@[simp] theorem takeFault_bankB (e : EngineFault) : (takeFault e s).bankB = s.bankB := by
  unfold takeFault freeState
  split <;> rfl
@[simp] theorem takeFault_console (e : EngineFault) : (takeFault e s).console = s.console := by
  unfold takeFault freeState
  split <;> rfl
@[simp] theorem takeFault_bps (e : EngineFault) : (takeFault e s).bps = s.bps := by
  unfold takeFault freeState
  split <;> rfl
@[simp] theorem takeFault_prog (e : EngineFault) : (takeFault e s).prog = s.prog := by
  unfold takeFault freeState
  split <;> rfl
@[simp] theorem takeFault_labels (e : EngineFault) : (takeFault e s).labels = s.labels := by
  unfold takeFault freeState
  split <;> rfl

/-- An early fault keeps registers, flags, memory and devices too. -/
theorem takeFault_early (e : EngineFault) (h : e.early = true) :
    takeFault e s = { s with faulted := true, halted := false, report := .raised e } := by
  simp [takeFault, h]

-- ## Registers
@[simp] theorem Regs.get_set_same (g : Regs) (r : Reg32) (v : Word) : (g.set r v).get r = v := by
  cases r <;> rfl

theorem Regs.get_set_other (g : Regs) (r q : Reg32) (v : Word) (h : q ≠ r) : (g.set r v).get q = g.get q := by
  cases r <;> cases q <;> first | rfl | exact absurd rfl h

@[simp] theorem getReg_setReg_same (r : Reg32) (v : Word) : getReg (setReg s r v) r = v := Regs.get_set_same _ _ _

theorem getReg_setReg_other (r q : Reg32) (v : Word) (h : q ≠ r) : getReg (setReg s r v) q = getReg s q :=
  Regs.get_set_other _ _ _ _ h

/-- Two states with the same registers read alike. -/
theorem getReg_congr {s t : State} (h : t.regs = s.regs) (r : Reg32) : getReg t r = getReg s r := by
  simp [getReg, h]
@[simp] theorem getReg_setFlags (f : Word) (q : Reg32) : getReg (setFlags s f) q = getReg s q := rfl
@[simp] theorem getReg8_setFlags (f : Word) (q : Reg8) : getReg8 (setFlags s f) q = getReg8 s q := rfl
@[simp] theorem getReg_setPc (n : Nat) (q : Reg32) : getReg (setPc s n) q = getReg s q := rfl
@[simp] theorem getReg8_setPc (n : Nat) (q : Reg8) : getReg8 (setPc s n) q = getReg8 s q := rfl
@[simp] theorem getReg_setCs (l : List Nat) (q : Reg32) : getReg (setCs s l) q = getReg s q := rfl
@[simp] theorem getReg8_setCs (l : List Nat) (q : Reg8) : getReg8 (setCs s l) q = getReg8 s q := rfl
@[simp] theorem getReg_halt (q : Reg32) : getReg (halt s) q = getReg s q := rfl
@[simp] theorem getReg8_halt (q : Reg8) : getReg8 (halt s) q = getReg8 s q := rfl
@[simp] theorem getReg_setBankA (m : Memory) (q : Reg32) : getReg (setBankA s m) q = getReg s q := rfl
@[simp] theorem getReg8_setBankA (m : Memory) (q : Reg8) : getReg8 (setBankA s m) q = getReg8 s q := rfl
@[simp] theorem getReg_setPixels (m : Memory) (q : Reg32) : getReg (setPixels s m) q = getReg s q := rfl
@[simp] theorem getReg8_setPixels (m : Memory) (q : Reg8) : getReg8 (setPixels s m) q = getReg8 s q := rfl
@[simp] theorem getReg_say (c : Char) (q : Reg32) : getReg (say s c) q = getReg s q := rfl
@[simp] theorem getReg8_say (c : Char) (q : Reg8) : getReg8 (say s c) q = getReg8 s q := rfl
@[simp] theorem getReg_setReport (r : Report) (q : Reg32) : getReg (setReport s r) q = getReg s q := rfl
@[simp] theorem getReg8_setReport (r : Report) (q : Reg8) : getReg8 (setReport s r) q = getReg8 s q := rfl
@[simp] theorem getReg_addDraws (n : Nat) (q : Reg32) : getReg (addDraws s n) q = getReg s q := rfl
@[simp] theorem getReg8_addDraws (n : Nat) (q : Reg8) : getReg8 (addDraws s n) q = getReg8 s q := rfl
@[simp] theorem getReg_popEvent (e : Byte × Bool) (l : List (Byte × Bool)) (q : Reg32) : getReg (popEvent s e l) q = getReg s q := rfl
@[simp] theorem getReg8_popEvent (e : Byte × Bool) (l : List (Byte × Bool)) (q : Reg8) : getReg8 (popEvent s e l) q = getReg8 s q := rfl

end Sys2Proof.Machine
end

