-- ==== Sys2Proof/Laws/Ops.lean ====
section
/-! SUPPORT. One lemma for each shared operation over runs, memory, devices and operands: what it can do when it
completes. Later proofs cite these and do not unfold the operations. -/

namespace Sys2Proof.Machine

-- ## Runs
@[simp] theorem Run.bind_done {α β : Type} (a : α) (s : State) (k : α → State → Run β) :
    (Run.done a s).bind k = k a s := rfl
@[simp] theorem Run.bind_raised {α β : Type} (e : EngineFault) (s : State) (k : α → State → Run β) :
    (Run.raised e s : Run α).bind k = .raised e s := rfl
@[simp] theorem Run.bind_refused {α β : Type} (r : Refusal) (k : α → State → Run β) :
    (Run.refused r : Run α).bind k = .refused r := rfl

/-- A composed run completes exactly when both parts do. -/
theorem Run.bind_eq_done {α β : Type} {x : Run α} {k : α → State → Run β} {b : β} {t : State} :
    x.bind k = .done b t ↔ ∃ a s, x = .done a s ∧ k a s = .done b t := by
  cases x <;> simp [Run.bind]

@[simp] theorem finish_done (s : State) : finish (.done () s) = .next s := rfl
@[simp] theorem finish_raised (e : EngineFault) (s : State) : finish (.raised e s) = .next (takeFault e s) := rfl
@[simp] theorem finish_refused (r : Refusal) : finish (.refused r) = .refused r := rfl

/-- An instruction that answers next completed or took a fault. -/
theorem finish_eq_next {x : Run Unit} {t : State} :
    finish x = .next t ↔ x = .done () t ∨ ∃ e s, x = .raised e s ∧ t = takeFault e s := by
  cases x <;> simp [finish, eq_comm]

/-- An instruction that answers next and is not faulted completed. -/
theorem finish_eq_next_running {x : Run Unit} {t : State} (h : finish x = .next t) (ht : t.faulted = false) :
    x = .done () t := by
  rcases finish_eq_next.mp h with h | ⟨e, s, -, rfl⟩
  · exact h
  · simp at ht

/-- No instruction answers a fault of the model: an error of the engine is a next state. -/
theorem finish_ne_fault (x : Run Unit) (f : Fault) : finish x ≠ .fault f := by
  cases x <;> simp [finish]

@[simp] theorem advance_done (s : State) : advance (.done () s) = .done () (setPc s (s.pc + 1)) := rfl
@[simp] theorem advance_raised (e : EngineFault) (s : State) : advance (.raised e s) = .raised e s := rfl
@[simp] theorem advance_refused (r : Refusal) : advance (.refused r) = .refused r := rfl

/-- An advanced handler completes exactly when the handler does, with pc at the next index. -/
theorem advance_eq_done {x : Run Unit} {t : State} :
    advance x = .done () t ↔ ∃ s, x = .done () s ∧ t = setPc s (s.pc + 1) := by
  cases x <;> simp [advance, Run.bind, eq_comm]

-- ## Devices and memory

/-- The fields that reading a device can change are the keyboard's and the draw counter. -/
theorem devTouch_cases (s : State) (a : Nat) :
    devTouch s a = s ∨ devTouch s a = addDraws s 1 ∨ ∃ e l, s.kq = e :: l ∧ devTouch s a = popEvent s e l := by
  unfold devTouch
  split
  · split
    · unfold afterKeyCode
      split
      · exact Or.inr (Or.inl rfl)
      · exact Or.inr (Or.inr ⟨_, _, ‹_›, rfl⟩)
    · exact Or.inl rfl
  all_goals exact Or.inl rfl

/-- What a read can change, whatever it reads. -/
theorem memTouch_cases (s : State) (a : Word) :
    memTouch s a = s ∨ memTouch s a = addDraws s 1 ∨ ∃ e l, s.kq = e :: l ∧ memTouch s a = popEvent s e l := by
  unfold memTouch
  split
  · exact devTouch_cases s _
  · exact Or.inl rfl

theorem touch_cases (s : State) (op : Operand) :
    touch s op = s ∨ touch s op = addDraws s 1 ∨ ∃ e l, s.kq = e :: l ∧ touch s op = popEvent s e l := by
  cases op with
  | mem m => exact memTouch_cases s _
  | _ => exact Or.inl rfl

/-- Writing a device can change one pixel. -/
theorem devPoke_cases (s : State) (a : Nat) (b : Byte) :
    devPoke s a b = s ∨
      (a - s.cfg.lcdBase < s.cfg.lcdW * s.cfg.lcdH ∧
        devPoke s a b = setPixels s (s.pixels.write (a - s.cfg.lcdBase) b)) := by
  unfold devPoke
  split
  · split
    · exact Or.inr ⟨‹_›, rfl⟩
    · exact Or.inl rfl
  all_goals exact Or.inl rfl

/-- What a write changes: nothing, a pixel, or bytes of bank A. -/
theorem memPoke_cases (s : State) (a : Word) (n : Nat) (v : Word) :
    memPoke s a n v = s ∨
      (∃ i, i < s.cfg.lcdW * s.cfg.lcdH ∧ memPoke s a n v = setPixels s (s.pixels.write i (v.setWidth 8))) ∨
      (isMmio s.cfg a.toNat = false ∧ memPoke s a n v = setBankA s (s.bankA.writeBytes a.toNat n v)) := by
  unfold memPoke
  split
  · rcases devPoke_cases s a.toNat (v.setWidth 8) with h | ⟨h, h'⟩
    · exact Or.inl h
    · exact Or.inr (Or.inl ⟨_, h, h'⟩)
  · next h => exact Or.inr (Or.inr ⟨eq_false_of_ne_true h, rfl⟩)

/-- A memory read completes exactly when it is not mixed, with its value and its side effect. -/
theorem memRead_eq_done {s t : State} {a : Word} {n : Nat} {v : Word} :
    memRead s a n = .done v t ↔ memReadOk s a n = true ∧ v = memPeek s a n ∧ t = memTouch s a := by
  unfold memRead
  split
  · next h =>
    constructor
    · intro e
      cases e
      exact ⟨h, rfl, rfl⟩
    · rintro ⟨-, rfl, rfl⟩
      rfl
  · next h =>
    constructor
    · intro e
      cases e
    · intro e
      exact absurd e.1 h

theorem memRead_of_ok {s : State} {a : Word} {n : Nat} (h : memReadOk s a n = true) :
    memRead s a n = .done (memPeek s a n) (memTouch s a) := by simp [memRead, h]

/-- A memory read raises nothing. -/
theorem memRead_ne_raised {s t : State} {a : Word} {n : Nat} {e : EngineFault} : memRead s a n ≠ .raised e t := by
  unfold memRead
  split <;> simp

/-- A write that completes is not mixed. -/
theorem not_mixed_of_writeOk {s : State} {a : Word} {n : Nat} (h : memWriteOk s a n = true) :
    mixedMmio s.cfg a.toNat n = false := by
  unfold memWriteOk at h
  unfold mixedMmio
  cases hm : isMmio s.cfg a.toNat <;> simp_all

/-- A memory write completes exactly when all its bytes can be written. -/
theorem memWrite_eq_done {s t : State} {a : Word} {n : Nat} {v : Word} :
    memWrite s a n v = .done () t ↔ memWriteOk s a n = true ∧ t = memPoke s a n v := by
  constructor
  · intro h
    unfold memWrite at h
    split at h
    · simp at h
    · split at h
      · exact ⟨‹_›, by simpa [eq_comm] using h⟩
      · simp at h
  · rintro ⟨h, rfl⟩
    simp [memWrite, not_mixed_of_writeOk h, h]

theorem memWrite_of_ok {s : State} {a : Word} {n : Nat} (h : memWriteOk s a n = true) (v : Word) :
    memWrite s a n v = .done () (memPoke s a n v) := memWrite_eq_done.mpr ⟨h, rfl⟩

/-- The only error a memory write raises is the out-of-range one, in the state before it. -/
theorem memWrite_eq_raised {s t : State} {a : Word} {n : Nat} {v : Word} {e : EngineFault}
    (h : memWrite s a n v = .raised e t) : e = .memoryOutOfRange (max a.toNat s.cfg.memSize) ∧ t = s := by
  unfold memWrite at h
  split at h
  · simp at h
  · split at h
    · simp at h
    · simpa [eq_comm] using h

-- ## Operands

/-- Reading an operand completes exactly when its access does. -/
theorem readOp_eq_done {s t : State} {op : Operand} {v : Word} :
    readOp s op = .done v t ↔ readOk s op = true ∧ v = peek s op ∧ t = touch s op := by
  cases op with
  | mem m => exact memRead_eq_done
  | _ => simp [readOp, readOk, touch, eq_comm]

theorem readOp_of_ok {s : State} {op : Operand} (h : readOk s op = true) :
    readOp s op = .done (peek s op) (touch s op) := readOp_eq_done.mpr ⟨h, rfl, rfl⟩

theorem readOp_ne_raised {s t : State} {op : Operand} {e : EngineFault} : readOp s op ≠ .raised e t := by
  cases op with
  | mem m => exact memRead_ne_raised
  | _ => simp [readOp]

/-- Writing an operand completes exactly when its access does. -/
theorem writeOp_eq_done {s t : State} {op : Operand} {v : Word} :
    writeOp s op v = .done () t ↔ writeOk s op = true ∧ t = poke s op v := by
  cases op with
  | mem m => exact memWrite_eq_done
  | _ => simp [writeOp, writeOk, eq_comm]

theorem writeOp_of_ok {s : State} {op : Operand} (h : writeOk s op = true) (v : Word) :
    writeOp s op v = .done () (poke s op v) := writeOp_eq_done.mpr ⟨h, rfl⟩

/-- The only error that writing an operand raises is the out-of-range one, in the state before it. -/
theorem writeOp_eq_raised {s t : State} {op : Operand} {v : Word} {e : EngineFault}
    (h : writeOp s op v = .raised e t) : (∃ a, e = .memoryOutOfRange a) ∧ t = s := by
  cases op with
  | mem m => exact ⟨⟨_, (memWrite_eq_raised h).1⟩, (memWrite_eq_raised h).2⟩
  | _ => simp [writeOp] at h

-- ## What a read leaves alone
@[simp] theorem touch_regs (s : State) (op : Operand) : (touch s op).regs = s.regs := by
  rcases touch_cases s op with h | h | ⟨e, l, -, h⟩ <;> simp [h]
@[simp] theorem touch_cfg (s : State) (op : Operand) : (touch s op).cfg = s.cfg := by
  rcases touch_cases s op with h | h | ⟨e, l, -, h⟩ <;> simp [h]
@[simp] theorem touch_flags (s : State) (op : Operand) : (touch s op).flags = s.flags := by
  rcases touch_cases s op with h | h | ⟨e, l, -, h⟩ <;> simp [h]
@[simp] theorem touch_pc (s : State) (op : Operand) : (touch s op).pc = s.pc := by
  rcases touch_cases s op with h | h | ⟨e, l, -, h⟩ <;> simp [h]
@[simp] theorem touch_bankA (s : State) (op : Operand) : (touch s op).bankA = s.bankA := by
  rcases touch_cases s op with h | h | ⟨e, l, -, h⟩ <;> simp [h]
@[simp] theorem touch_mode (s : State) (op : Operand) : (touch s op).mode = s.mode := by
  rcases touch_cases s op with h | h | ⟨e, l, -, h⟩ <;> simp [h]
@[simp] theorem getReg_touch (s : State) (op : Operand) (r : Reg32) : getReg (touch s op) r = getReg s r := by
  simp [getReg]
@[simp] theorem getReg8_touch (s : State) (op : Operand) (r : Reg8) : getReg8 (touch s op) r = getReg8 s r := by
  simp [getReg8]
@[simp] theorem ea_touch (s : State) (op : Operand) (m : MemShape) : ea (touch s op) m = ea s m := by
  cases m <;> simp [ea]
@[simp] theorem readOk_touch (s : State) (op op2 : Operand) : readOk (touch s op) op2 = readOk s op2 := by
  cases op2 <;> simp [readOk, memReadOk]
@[simp] theorem writeOk_touch (s : State) (op op2 : Operand) : writeOk (touch s op) op2 = writeOk s op2 := by
  cases op2 <;> simp [writeOk, memWriteOk]

-- ## Counts, tokens and forms

/-- Operands that all resolved go on. -/
theorem resolved_of_all {ops : List Operand} (h : ∀ o ∈ ops, (∀ t, o ≠ .malformed t) ∧ ∀ t, o ≠ .unshown t)
    (s : State) (go : Run Unit) : resolved ops s go = go := by
  induction ops with
  | nil => rfl
  | cons o ops ih =>
    have ho := h o List.mem_cons_self
    have ih := ih fun x hx => h x (List.mem_cons_of_mem _ hx)
    cases o with
    | malformed t => exact absurd rfl (ho.1 t)
    | unshown t => exact absurd rfl (ho.2 t)
    | _ => exact ih

/-- What a token check that completes did: it went on. -/
theorem resolved_eq_done {ops : List Operand} {s t : State} {go : Run Unit} (h : resolved ops s go = .done () t) :
    go = .done () t := by
  induction ops with
  | nil => exact h
  | cons o ops ih =>
    cases o with
    | malformed t => simp [resolved] at h
    | unshown t => simp [resolved] at h
    | _ => exact ih h

/-- A wrong count that completes did nothing, under the noop policy. -/
theorem wrongCount_eq_done {m : Mnemonic} {n : Nat} {s t : State} (h : wrongCount m n s = .done () t) :
    t = s ∧ s.cfg.countPolicy = .noop ∧ countRefused m n = false := by
  unfold wrongCount at h
  split at h
  · simp at h
  · split at h
    · next hc _ hp =>
      cases h
      exact ⟨rfl, hp, eq_false_of_ne_true hc⟩
    · simp at h

/-- An instruction of no operand that completes: it ran, or its count was wrong and it did nothing. -/
theorem operands0_eq_done {m : Mnemonic} {ops : List Operand} {s t : State} {go : Run Unit}
    (h : operands0 m ops s go = .done () t) : (ops = [] ∧ go = .done () t) ∨ (ops ≠ [] ∧ t = s) := by
  unfold operands0 at h
  split at h
  · exact Or.inl ⟨rfl, h⟩
  · exact Or.inr ⟨by assumption, (wrongCount_eq_done h).1⟩

/-- An instruction of one operand that completes: it ran, or its count was wrong and it did nothing. -/
theorem operands1_eq_done {m : Mnemonic} {ops : List Operand} {s t : State} {go : Operand → Run Unit}
    (h : operands1 m ops s go = .done () t) : (∃ a, ops = [a] ∧ go a = .done () t) ∨ (ops.length ≠ 1 ∧ t = s) := by
  unfold operands1 at h
  split at h
  · exact Or.inl ⟨_, rfl, resolved_eq_done h⟩
  · rename_i hne
    refine Or.inr ⟨?_, (wrongCount_eq_done h).1⟩
    intro hl
    obtain ⟨a, rfl⟩ := List.length_eq_one_iff.mp hl
    exact hne a rfl

/-- An instruction of two operands that completes: it ran, or its count was wrong and it did nothing. -/
theorem operands2_eq_done {m : Mnemonic} {ops : List Operand} {s t : State} {go : Operand → Operand → Run Unit}
    (h : operands2 m ops s go = .done () t) :
    (∃ a b, ops = [a, b] ∧ go a b = .done () t) ∨ (ops.length ≠ 2 ∧ t = s) := by
  unfold operands2 at h
  split at h
  · exact Or.inl ⟨_, _, rfl, resolved_eq_done h⟩
  · rename_i hne
    refine Or.inr ⟨?_, (wrongCount_eq_done h).1⟩
    intro hl
    obtain ⟨a, b, rfl⟩ := List.length_eq_two.mp hl
    exact hne a b rfl

/-- What a form check that completes did. -/
theorem Form.check_eq_done {f : Form} {s t : State} {wide narrow : Run Unit}
    (h : f.check s wide narrow = .done () t) :
    (f = .wide ∧ wide = .done () t) ∨ (f = .narrow ∧ narrow = .done () t) ∨ (f = .noop ∧ t = s) := by
  cases f with
  | wide => exact Or.inl ⟨rfl, h⟩
  | narrow => exact Or.inr (Or.inl ⟨rfl, h⟩)
  | noop => exact Or.inr (Or.inr ⟨rfl, by simpa [Form.check, eq_comm] using h⟩)
  | reject r => simp [Form.check] at h

end Sys2Proof.Machine
end

