-- ==== Sys2Proof/Laws/Frames.lean ====
section
/-! SUPPORT. One lemma for each shared frame of the instructions that says what it can do when it completes, and one that
says that it does complete. -/

namespace Sys2Proof.Machine

-- ## Forms and tokens

/-- The form was admitted, or asks for nothing. -/
def Form.admitted : Form → Bool
  | .reject _ => false
  | _ => true

/-- With both operands resolved, two operands go on. -/
theorem operands2_resolved {m : Mnemonic} {a b : Operand} (ha : a.resolved = true) (hb : b.resolved = true)
    (s : State) (go : Operand → Operand → Run Unit) : operands2 m [a, b] s go = go a b := by
  cases a <;> cases b <;> simp_all [operands2, Machine.resolved, Operand.resolved]

/-- With its operand resolved, one operand goes on. -/
theorem operands1_resolved {m : Mnemonic} {a : Operand} (ha : a.resolved = true) (s : State)
    (go : Operand → Run Unit) : operands1 m [a] s go = go a := by
  cases a <;> simp_all [operands1, Machine.resolved, Operand.resolved]

theorem formBinary_resolved {a b : Operand} (h : (formBinary a b).admitted = true) :
    a.resolved = true ∧ b.resolved = true := by
  cases a <;> cases b <;> simp_all [formBinary, Form.admitted, Form.never, Form.byteOnly, Operand.resolved]

/-- The 8-bit forms of the binary instructions. -/
theorem formBinary_narrow {a b : Operand} (h : formBinary a b = .narrow) :
    ∃ r, a = .reg8 r ∧ ((∃ r2, b = .reg8 r2) ∨ ∃ v, b = .imm v ∧ v ≤ 255) := by
  cases a <;> cases b <;> simp [formBinary, Form.never, Form.byteOnly] at h ⊢
  · exact h
  · split at h <;> simp_all

theorem formBinary_ne_noop (a b : Operand) : formBinary a b ≠ .noop := by
  cases a <;> cases b <;> simp [formBinary, Form.never, Form.byteOnly] <;> split <;> simp

theorem formUnary_resolved {a : Operand} (h : (formUnary a).admitted = true) : a.resolved = true := by
  cases a <;> simp_all [formUnary, Form.admitted, Form.never, Operand.resolved]

theorem formScan_resolved {a b : Operand} (h : (formScan a b).admitted = true) :
    a.resolved = true ∧ b.resolved = true := by
  cases a <;> cases b <;> simp_all [formScan, Form.admitted, Form.never, Form.byteOnly, Operand.resolved]

theorem formShift_resolved {a b : Operand} (h : (formShift a b).admitted = true) :
    a.resolved = true ∧ b.resolved = true := by
  cases a <;> cases b <;> simp_all [formShift, Form.admitted, Form.never, Form.byteOnly, Operand.resolved]

theorem formRegMem_resolved {a : Operand} (h : (formRegMem a).admitted = true) : a.resolved = true := by
  cases a <;> simp_all [formRegMem, Form.admitted, Form.never, Form.byteOnly, Operand.resolved]

theorem formMov_resolved {a b : Operand} (h : (formMov a b).admitted = true) :
    a.resolved = true ∧ b.resolved = true := by
  cases a <;> cases b <;> simp_all [formMov, Form.admitted, Form.never, Form.byteOnly, Operand.resolved]

-- ## Reads of a state with other fields changed

@[simp] theorem touch_reg32 (s : State) (r : Reg32) : touch s (.reg32 r) = s := rfl
@[simp] theorem touch_reg8 (s : State) (r : Reg8) : touch s (.reg8 r) = s := rfl
@[simp] theorem touch_imm (s : State) (v : Word) : touch s (.imm v) = s := rfl

@[simp] theorem memTouch_regs (s : State) (a : Word) : (memTouch s a).regs = s.regs := touch_regs s (.mem (.abs a))
@[simp] theorem memTouch_cfg (s : State) (a : Word) : (memTouch s a).cfg = s.cfg := touch_cfg s (.mem (.abs a))
@[simp] theorem memTouch_flags (s : State) (a : Word) : (memTouch s a).flags = s.flags := touch_flags s (.mem (.abs a))
@[simp] theorem memTouch_bankA (s : State) (a : Word) : (memTouch s a).bankA = s.bankA := touch_bankA s (.mem (.abs a))
@[simp] theorem memTouch_mode (s : State) (a : Word) : (memTouch s a).mode = s.mode := touch_mode s (.mem (.abs a))
@[simp] theorem memTouch_pc (s : State) (a : Word) : (memTouch s a).pc = s.pc := touch_pc s (.mem (.abs a))
@[simp] theorem getReg_memTouch (s : State) (a : Word) (r : Reg32) : getReg (memTouch s a) r = getReg s r := by
  simp [getReg]
@[simp] theorem getReg8_memTouch (s : State) (a : Word) (r : Reg8) : getReg8 (memTouch s a) r = getReg8 s r := by
  simp [getReg8]
@[simp] theorem memReadOk_memTouch (s : State) (a b : Word) (n : Nat) :
    memReadOk (memTouch s a) b n = memReadOk s b n := by simp [memReadOk]
@[simp] theorem memWriteOk_memTouch (s : State) (a b : Word) (n : Nat) :
    memWriteOk (memTouch s a) b n = memWriteOk s b n := by simp [memWriteOk]

/-- A read of one byte is never mixed. -/
@[simp] theorem memReadOk_one (s : State) (a : Word) : memReadOk s a 1 = true := by
  unfold memReadOk mixedMmio
  cases h : isMmio s.cfg a.toNat <;> simp [touchesMmio, h]

-- ## The shared frames

/-- ADD, SUB, AND, OR, XOR, in their 32-bit forms, where the accesses complete. -/
theorem binaryOp_wide {m : Mnemonic} {f : Word → Word → Word} {fl : Word → Word → Word → Word → Word} {op : ByteOp}
    {s : State} {dst src : Operand} (hf : formBinary dst src = .wide) (hs : readOk s src = true)
    (hd : readOk s dst = true) (hw : writeOk s dst = true) :
    binaryOp m f fl op [dst, src] s =
      .done () (setFlags (poke (afterReads s dst src) dst (f (peek (touch s src) dst) (peek s src)))
        (fl (poke (afterReads s dst src) dst (f (peek (touch s src) dst) (peek s src))).flags
          (peek (touch s src) dst) (peek s src) (f (peek (touch s src) dst) (peek s src)))) := by
  obtain ⟨ha, hb⟩ := formBinary_resolved (a := dst) (b := src) (by simp [hf, Form.admitted])
  rw [binaryOp, operands2_resolved ha hb, hf, Form.check, readOp_of_ok hs, Run.bind_done,
    readOp_of_ok (by simpa using hd), Run.bind_done, writeOp_of_ok (by simpa using hw), Run.bind_done]
  rfl

/-- ADD, SUB, AND, OR, XOR, in their 8-bit forms. -/
theorem binaryOp_narrow {m : Mnemonic} {f : Word → Word → Word} {fl : Word → Word → Word → Word → Word} {op : ByteOp}
    {s : State} {dst src : Operand} (hf : formBinary dst src = .narrow) :
    binaryOp m f fl op [dst, src] s =
      .done () (setByteFlags (poke s dst (f (peek s dst) (peek s src))) op ((peek s dst).setWidth 8)
        ((peek s src).setWidth 8) ((f (peek s dst) (peek s src)).setWidth 8)) := by
  obtain ⟨r, rfl, ⟨r2, rfl⟩ | ⟨v, rfl, -⟩⟩ := formBinary_narrow hf
  · simp [binaryOp, operands2, Machine.resolved, hf, Form.check, readOp, writeOp]
  · simp [binaryOp, operands2, Machine.resolved, hf, Form.check, readOp, writeOp]

/-- What ADD, SUB, AND, OR and XOR can do when they complete. -/
theorem binaryOp_eq_done {m : Mnemonic} {f : Word → Word → Word} {fl : Word → Word → Word → Word → Word} {op : ByteOp}
    {s t : State} {ops : List Operand} (h : binaryOp m f fl op ops s = .done () t) :
    (∃ dst src, ops = [dst, src] ∧ formBinary dst src = .wide ∧ readOk s src = true ∧ readOk s dst = true ∧
      writeOk s dst = true ∧
      t = setFlags (poke (afterReads s dst src) dst (f (peek (touch s src) dst) (peek s src)))
        (fl (poke (afterReads s dst src) dst (f (peek (touch s src) dst) (peek s src))).flags
          (peek (touch s src) dst) (peek s src) (f (peek (touch s src) dst) (peek s src)))) ∨
    (∃ dst src, ops = [dst, src] ∧ formBinary dst src = .narrow ∧
      t = setByteFlags (poke s dst (f (peek s dst) (peek s src))) op ((peek s dst).setWidth 8)
        ((peek s src).setWidth 8) ((f (peek s dst) (peek s src)).setWidth 8)) ∨
    (ops.length ≠ 2 ∧ t = s) := by
  have h0 := h
  rcases operands2_eq_done h with ⟨dst, src, rfl, hgo⟩ | hgo
  · rcases Form.check_eq_done hgo with ⟨hf, h⟩ | ⟨hf, h⟩ | ⟨hf, h⟩
    · refine Or.inl ⟨dst, src, rfl, hf, ?_⟩
      obtain ⟨v, s1, h1, h⟩ := Run.bind_eq_done.mp h
      obtain ⟨d, s2, h2, h⟩ := Run.bind_eq_done.mp h
      obtain ⟨⟨⟩, s3, h3, h⟩ := Run.bind_eq_done.mp h
      obtain ⟨hs, rfl, rfl⟩ := readOp_eq_done.mp h1
      obtain ⟨hd, rfl, rfl⟩ := readOp_eq_done.mp h2
      obtain ⟨hw, rfl⟩ := writeOp_eq_done.mp h3
      cases h
      exact ⟨hs, by simpa using hd, by simpa using hw, rfl⟩
    · refine Or.inr (Or.inl ⟨dst, src, rfl, hf, ?_⟩)
      rw [binaryOp_narrow hf] at h0
      cases h0
      rfl
    · exact absurd hf (formBinary_ne_noop _ _)
  · exact Or.inr (Or.inr hgo)

/-- CMP and TEST, in their 32-bit forms, where the accesses complete. -/
theorem compareOp_wide {m : Mnemonic} {f : Word → Word → Word} {fl : Word → Word → Word → Word → Word} {op : ByteOp}
    {s : State} {dst src : Operand} (hf : formBinary dst src = .wide) (hs : readOk s src = true)
    (hd : readOk s dst = true) :
    compareOp m f fl op [dst, src] s =
      .done () (setFlags (afterReads s dst src) (fl s.flags (peek (touch s src) dst) (peek s src)
        (f (peek (touch s src) dst) (peek s src)))) := by
  obtain ⟨ha, hb⟩ := formBinary_resolved (a := dst) (b := src) (by simp [hf, Form.admitted])
  rw [compareOp, operands2_resolved ha hb, hf, Form.check, readOp_of_ok hs, Run.bind_done,
    readOp_of_ok (by simpa using hd), Run.bind_done]
  simp [afterReads]

/-- CMP and TEST, in their 8-bit forms. -/
theorem compareOp_narrow {m : Mnemonic} {f : Word → Word → Word} {fl : Word → Word → Word → Word → Word} {op : ByteOp}
    {s : State} {dst src : Operand} (hf : formBinary dst src = .narrow) :
    compareOp m f fl op [dst, src] s =
      .done () (setByteFlags s op ((peek s dst).setWidth 8)
        ((peek s src).setWidth 8) ((f (peek s dst) (peek s src)).setWidth 8)) := by
  obtain ⟨r, rfl, ⟨r2, rfl⟩ | ⟨v, rfl, -⟩⟩ := formBinary_narrow hf
  · simp [compareOp, operands2, Machine.resolved, hf, Form.check, readOp]
  · simp [compareOp, operands2, Machine.resolved, hf, Form.check, readOp]

/-- What CMP and TEST can do when they complete. -/
theorem compareOp_eq_done {m : Mnemonic} {f : Word → Word → Word} {fl : Word → Word → Word → Word → Word} {op : ByteOp}
    {s t : State} {ops : List Operand} (h : compareOp m f fl op ops s = .done () t) :
    (∃ dst src, ops = [dst, src] ∧ formBinary dst src = .wide ∧ readOk s src = true ∧ readOk s dst = true ∧
      t = setFlags (afterReads s dst src) (fl s.flags (peek (touch s src) dst) (peek s src)
        (f (peek (touch s src) dst) (peek s src)))) ∨
    (∃ dst src, ops = [dst, src] ∧ formBinary dst src = .narrow ∧
      t = setByteFlags s op ((peek s dst).setWidth 8) ((peek s src).setWidth 8)
        ((f (peek s dst) (peek s src)).setWidth 8)) ∨
    (ops.length ≠ 2 ∧ t = s) := by
  have h0 := h
  rcases operands2_eq_done h with ⟨dst, src, rfl, hgo⟩ | hgo
  · rcases Form.check_eq_done hgo with ⟨hf, h⟩ | ⟨hf, h⟩ | ⟨hf, h⟩
    · refine Or.inl ⟨dst, src, rfl, hf, ?_⟩
      obtain ⟨v, s1, h1, h⟩ := Run.bind_eq_done.mp h
      obtain ⟨d, s2, h2, h⟩ := Run.bind_eq_done.mp h
      obtain ⟨hs, rfl, rfl⟩ := readOp_eq_done.mp h1
      obtain ⟨hd, rfl, rfl⟩ := readOp_eq_done.mp h2
      cases h
      exact ⟨hs, by simpa using hd, by simp [afterReads]⟩
    · refine Or.inr (Or.inl ⟨dst, src, rfl, hf, ?_⟩)
      rw [compareOp_narrow hf] at h0
      cases h0
      rfl
    · exact absurd hf (formBinary_ne_noop _ _)
  · exact Or.inr (Or.inr hgo)

/-- INC, DEC and NEG, in their 32-bit forms, where the accesses complete. -/
theorem unaryOp_wide {m : Mnemonic} {f : Word → Word} {fl : Word → Word → Word → Word} {op : ByteOp} {b : Byte}
    {s : State} {dst : Operand} (hf : formUnary dst = .wide) (hd : readOk s dst = true) (hw : writeOk s dst = true) :
    unaryOp m f fl op b [dst] s =
      .done () (setFlags (poke (touch s dst) dst (f (peek s dst)))
        (fl (poke (touch s dst) dst (f (peek s dst))).flags (peek s dst) (f (peek s dst)))) := by
  have ha := formUnary_resolved (a := dst) (by simp [hf, Form.admitted])
  rw [unaryOp, operands1_resolved ha, hf, Form.check, readOp_of_ok hd, Run.bind_done,
    writeOp_of_ok (by simpa using hw), Run.bind_done]

/-- INC, DEC and NEG, in their 8-bit forms. -/
theorem unaryOp_narrow {m : Mnemonic} {f : Word → Word} {fl : Word → Word → Word → Word} {op : ByteOp} {b : Byte}
    {s : State} {r : Reg8} :
    unaryOp m f fl op b [.reg8 r] s =
      .done () (setByteFlags (poke s (.reg8 r) (f (peek s (.reg8 r)))) op (getReg8 s r) b
        ((f (peek s (.reg8 r))).setWidth 8)) := by
  simp [unaryOp, operands1, Machine.resolved, formUnary, Form.check, readOp, writeOp, peek]

/-- What INC, DEC and NEG can do when they complete. -/
theorem unaryOp_eq_done {m : Mnemonic} {f : Word → Word} {fl : Word → Word → Word → Word} {op : ByteOp} {b : Byte}
    {s t : State} {ops : List Operand} (h : unaryOp m f fl op b ops s = .done () t) :
    (∃ dst, ops = [dst] ∧ formUnary dst = .wide ∧ readOk s dst = true ∧ writeOk s dst = true ∧
      t = setFlags (poke (touch s dst) dst (f (peek s dst)))
        (fl (poke (touch s dst) dst (f (peek s dst))).flags (peek s dst) (f (peek s dst)))) ∨
    (∃ r, ops = [.reg8 r] ∧
      t = setByteFlags (poke s (.reg8 r) (f (peek s (.reg8 r)))) op (getReg8 s r) b
        ((f (peek s (.reg8 r))).setWidth 8)) ∨
    (ops.length ≠ 1 ∧ t = s) := by
  have h0 := h
  rcases operands1_eq_done h with ⟨dst, rfl, hgo⟩ | hgo
  · rcases Form.check_eq_done hgo with ⟨hf, h⟩ | ⟨hf, h⟩ | ⟨hf, h⟩
    · refine Or.inl ⟨dst, rfl, hf, ?_⟩
      obtain ⟨d, s1, h1, h⟩ := Run.bind_eq_done.mp h
      obtain ⟨⟨⟩, s2, h2, h⟩ := Run.bind_eq_done.mp h
      obtain ⟨hd, rfl, rfl⟩ := readOp_eq_done.mp h1
      obtain ⟨hw, rfl⟩ := writeOp_eq_done.mp h2
      cases h
      exact ⟨hd, by simpa using hw, rfl⟩
    · cases dst <;> simp [formUnary, Form.never] at hf
      refine Or.inr (Or.inl ⟨_, rfl, ?_⟩)
      rw [unaryOp_narrow] at h0
      cases h0
      rfl
    · cases dst <;> simp [formUnary, Form.never] at hf
  · exact Or.inr (Or.inr hgo)

/-- A CMOVcc that moves has a register destination. -/
theorem formCmov_wide {s : State} {dst src : Operand} (h : formCmov s dst src = .wide) : ∃ r, dst = .reg32 r := by
  cases dst <;> cases src <;> simp [formCmov, Form.never, Form.byteOnly] at h ⊢
  split at h <;> cases h

/-- A CMOVcc is never of 8 bits. -/
theorem formCmov_ne_narrow (s : State) (dst src : Operand) : formCmov s dst src ≠ .narrow := by
  intro h
  cases dst <;> cases src <;> simp [formCmov, Form.never, Form.byteOnly] at h <;> split at h <;> cases h

/-- What a CMOVcc can do when it completes: the move, or nothing. -/
theorem cmov_eq_done {m : Mnemonic} {c : Cond} {s t : State} {ops : List Operand} (h : cmov m c ops s = .done () t) :
    (∃ r src, ops = [.reg32 r, src] ∧ formCmov s (.reg32 r) src = .wide ∧ holds c s.flags = true ∧
      readOk s src = true ∧ t = setReg (touch s src) r (peek s src)) ∨
    t = s := by
  rcases operands2_eq_done h with ⟨dst, src, rfl, hgo⟩ | hgo
  · rcases Form.check_eq_done hgo with ⟨hf, h⟩ | ⟨hf, h⟩ | ⟨hf, h⟩
    · split at h
      · next hc =>
        obtain ⟨v, s1, h1, h⟩ := Run.bind_eq_done.mp h
        obtain ⟨hs, rfl, rfl⟩ := readOp_eq_done.mp h1
        obtain ⟨r, rfl⟩ := formCmov_wide hf
        cases h
        exact Or.inl ⟨_, src, rfl, hf, hc, hs, rfl⟩
      · cases h
        exact Or.inr rfl
    · exact absurd hf (formCmov_ne_narrow s dst src)
    · exact Or.inr h
  · exact Or.inr hgo.2

/-- BSF and BSR where the read completes. -/
theorem scanOp_wide {m : Mnemonic} {index : Word → Nat} {s : State} {r : Reg32} {src : Operand}
    (hf : formScan (.reg32 r) src = .wide) (hs : readOk s src = true) :
    scanOp m index [.reg32 r, src] s =
      .done () (if peek s src = 0 then setFlags (touch s src) (putZf s.flags true)
        else setFlags (setReg (touch s src) r (BitVec.ofNat 32 (index (peek s src)))) (putZf s.flags false)) := by
  obtain ⟨ha, hb⟩ := formScan_resolved (a := .reg32 r) (b := src) (by simp [hf, Form.admitted])
  rw [scanOp, operands2_resolved ha hb, hf, Form.check, readOp_of_ok hs, Run.bind_done]
  split <;> simp [poke]

/-- What BSF and BSR can do when they complete. -/
theorem scanOp_eq_done {m : Mnemonic} {index : Word → Nat} {s t : State} {ops : List Operand}
    (h : scanOp m index ops s = .done () t) :
    (∃ r src, ops = [.reg32 r, src] ∧ formScan (.reg32 r) src = .wide ∧ readOk s src = true ∧
      t = if peek s src = 0 then setFlags (touch s src) (putZf s.flags true)
        else setFlags (setReg (touch s src) r (BitVec.ofNat 32 (index (peek s src)))) (putZf s.flags false)) ∨
    (ops.length ≠ 2 ∧ t = s) := by
  have h0 := h
  rcases operands2_eq_done h with ⟨dst, src, rfl, hgo⟩ | hgo
  · rcases Form.check_eq_done hgo with ⟨hf, h⟩ | ⟨hf, h⟩ | ⟨hf, h⟩
    · obtain ⟨v, s1, h1, h⟩ := Run.bind_eq_done.mp h
      obtain ⟨hs, rfl, rfl⟩ := readOp_eq_done.mp h1
      cases dst <;> try (cases src <;> simp [formScan, Form.never, Form.byteOnly] at hf <;> done)
      rw [scanOp_wide hf hs] at h0
      cases h0
      exact Or.inl ⟨_, src, rfl, hf, hs, rfl⟩
    · cases dst <;> cases src <;> simp [formScan, Form.never, Form.byteOnly] at hf
    · cases dst <;> cases src <;> simp [formScan, Form.never, Form.byteOnly] at hf
  · exact Or.inr hgo

/-- The count of an admitted shift or rotate is no memory operand, so that reading it does nothing. -/
theorem formShift_count {dst count : Operand} (h : formShift dst count = .wide) (s : State) :
    readOk s count = true ∧ touch s count = s := by
  cases dst <;> cases count <;> simp_all [formShift, Form.never, Form.byteOnly, readOk]

/-- A shift or rotate with a masked count of 0. -/
theorem shiftOp_zero {m : Mnemonic} {f : Word → Word → Nat → Word} {fl : State → Word → Nat → Nat → Word → Word}
    {s : State} {dst count : Operand} (hf : formShift dst count = .wide) (hc : maskedCount s count = 0) :
    shiftOp m f fl [dst, count] s = if mmioOperand s dst then .refused .zeroCountMmio else .done () s := by
  obtain ⟨ha, hb⟩ := formShift_resolved (a := dst) (b := count) (by simp [hf, Form.admitted])
  obtain ⟨h1, h2⟩ := formShift_count hf s
  rw [shiftOp, operands2_resolved ha hb, hf, Form.check, readOp_of_ok h1, Run.bind_done, h2]
  exact if_pos hc

/-- A shift or rotate with another masked count, where the accesses complete. -/
theorem shiftOp_wide {m : Mnemonic} {f : Word → Word → Nat → Word} {fl : State → Word → Nat → Nat → Word → Word}
    {s : State} {dst count : Operand} (hf : formShift dst count = .wide) (hc : maskedCount s count ≠ 0)
    (hd : readOk s dst = true) (hw : writeOk s dst = true) :
    shiftOp m f fl [dst, count] s =
      let r := f s.flags (peek s dst) (maskedCount s count)
      let s3 := poke (touch s dst) dst r
      .done () (setFlags s3 (fl s3 (peek s dst) (rawCount s count) (maskedCount s count) r)) := by
  obtain ⟨ha, hb⟩ := formShift_resolved (a := dst) (b := count) (by simp [hf, Form.admitted])
  obtain ⟨h1, h2⟩ := formShift_count hf s
  rw [shiftOp, operands2_resolved ha hb, hf, Form.check, readOp_of_ok h1, Run.bind_done, h2]
  exact (if_neg hc).trans (by rw [readOp_of_ok hd, Run.bind_done, writeOp_of_ok (by simpa using hw), Run.bind_done, touch_flags]; rfl)

/-- What a shift or rotate can do when it completes. -/
theorem shiftOp_eq_done {m : Mnemonic} {f : Word → Word → Nat → Word}
    {fl : State → Word → Nat → Nat → Word → Word} {s t : State} {ops : List Operand}
    (h : shiftOp m f fl ops s = .done () t) :
    (∃ dst count, ops = [dst, count] ∧ formShift dst count = .wide ∧ maskedCount s count ≠ 0 ∧ readOk s dst = true ∧
      writeOk s dst = true ∧
      t = setFlags (poke (touch s dst) dst (f s.flags (peek s dst) (maskedCount s count)))
        (fl (poke (touch s dst) dst (f s.flags (peek s dst) (maskedCount s count))) (peek s dst) (rawCount s count)
          (maskedCount s count) (f s.flags (peek s dst) (maskedCount s count)))) ∨
    (∃ dst count, ops = [dst, count] ∧ formShift dst count = .wide ∧ maskedCount s count = 0 ∧
      mmioOperand s dst = false ∧ t = s) ∨
    (ops.length ≠ 2 ∧ t = s) := by
  have h0 := h
  rcases operands2_eq_done h with ⟨dst, count, rfl, hgo⟩ | hgo
  · rcases Form.check_eq_done hgo with ⟨hf, h⟩ | ⟨hf, h⟩ | ⟨hf, h⟩
    · by_cases hc : maskedCount s count = 0
      · rw [shiftOp_zero hf hc] at h0
        refine Or.inr (Or.inl ⟨dst, count, rfl, hf, hc, ?_⟩)
        split at h0
        · cases h0
        · next hm =>
          cases h0
          exact ⟨eq_false_of_ne_true hm, rfl⟩
      · obtain ⟨n, s1, h1, h⟩ := Run.bind_eq_done.mp h
        obtain ⟨-, rfl, rfl⟩ := readOp_eq_done.mp h1
        rw [(formShift_count hf s).2] at h
        replace h := (if_neg hc).symm.trans h
        obtain ⟨d, s2, h2, h⟩ := Run.bind_eq_done.mp h
        obtain ⟨⟨⟩, s3, h3, h⟩ := Run.bind_eq_done.mp h
        obtain ⟨hd, rfl, rfl⟩ := readOp_eq_done.mp h2
        obtain ⟨hw, rfl⟩ := writeOp_eq_done.mp h3
        have hw' : writeOk s dst = true := by simpa using hw
        rw [shiftOp_wide hf hc hd hw'] at h0
        cases h0
        exact Or.inl ⟨dst, count, rfl, hf, hc, hd, hw', rfl⟩
    · cases dst <;> cases count <;> simp [formShift, Form.never, Form.byteOnly] at hf
    · cases dst <;> cases count <;> simp [formShift, Form.never, Form.byteOnly] at hf
  · exact Or.inr (Or.inr hgo)

/-- MUL, IMUL, DIV and IDIV where the read completes. -/
theorem accumulatorOp_wide {m : Mnemonic} {s : State} {go : Word → State → Run Unit} {src : Operand}
    (hf : formRegMem src = .wide) (hs : readOk s src = true) :
    accumulatorOp m [src] s go = go (peek s src) (touch s src) := by
  have ha := formRegMem_resolved (a := src) (by simp [hf, Form.admitted])
  rw [accumulatorOp, operands1_resolved ha, hf, Form.check, readOp_of_ok hs, Run.bind_done]

/-- What MUL, IMUL, DIV and IDIV can do when they complete. -/
theorem accumulatorOp_eq_done {m : Mnemonic} {s t : State} {go : Word → State → Run Unit} {ops : List Operand}
    (h : accumulatorOp m ops s go = .done () t) :
    (∃ src, ops = [src] ∧ formRegMem src = .wide ∧ readOk s src = true ∧ go (peek s src) (touch s src) = .done () t) ∨
    (ops.length ≠ 1 ∧ t = s) := by
  rcases operands1_eq_done h with ⟨src, rfl, hgo⟩ | hgo
  · rcases Form.check_eq_done hgo with ⟨hf, h⟩ | ⟨hf, h⟩ | ⟨hf, h⟩
    · obtain ⟨v, s1, h1, h⟩ := Run.bind_eq_done.mp h
      obtain ⟨hs, rfl, rfl⟩ := readOp_eq_done.mp h1
      exact Or.inl ⟨src, rfl, hf, hs, h⟩
    · cases src <;> simp [formRegMem, Form.never, Form.byteOnly] at hf
    · cases src <;> simp [formRegMem, Form.never, Form.byteOnly] at hf
  · exact Or.inr hgo

/-- What the handler part of an instruction with one label can do when it completes. -/
theorem oneLabel_eq_done {ops : List Text} {s t : State} {effect : State → State}
    (h : oneLabel ops s effect = .done () t) : (∃ name, ops = [name]) ∧ t = effect s := by
  unfold oneLabel at h
  split at h
  · cases h
    exact ⟨⟨_, rfl⟩, rfl⟩
  · cases h

/-- What an instruction with one label can do when it completes: the handler's effect, then the stepper's. -/
theorem branch_eq_done {m : Mnemonic} {ops : List Text} {s t : State} {effect : State → State}
    {go : Nat → State → State} (h : branch m ops (oneLabel ops s effect) go = .done () t) :
    ∃ name target, ops = [name] ∧ (effect s).labels.lookup name = some target ∧ t = go target (effect s) := by
  obtain ⟨⟨⟩, s1, h1, h⟩ := Run.bind_eq_done.mp h
  obtain ⟨⟨name, rfl⟩, rfl⟩ := oneLabel_eq_done h1
  dsimp only at h
  split at h
  · next target hl =>
    cases h
    exact ⟨name, target, rfl, hl, rfl⟩
  · cases h

/-- An instruction with one label, where the label is in the table. -/
theorem branch_found {m : Mnemonic} {name : Text} {s : State} {effect : State → State} {go : Nat → State → State}
    {target : Nat} (h : (effect s).labels.lookup name = some target) :
    branch m [name] (oneLabel [name] s effect) go = .done () (go target (effect s)) := by
  simp [branch, oneLabel, h]

/-- An instruction with one label, where the label is not in the table. -/
theorem branch_missing {m : Mnemonic} {name : Text} {s : State} {effect : State → State} {go : Nat → State → State}
    (h : (effect s).labels.lookup name = none) :
    branch m [name] (oneLabel [name] s effect) go = .raised (.controlFlowFault m name) (effect s) := by
  simp [branch, oneLabel, h]

-- ## The step

/-- What a step that answers next did: it was at rest, or it ran the record at pc. -/
theorem stepWith_eq_next {run : Instr → State → Host.Outcome State Fault Refusal} {s t : State}
    (h : stepWith run s = .next t) :
    configOk s.cfg = true ∧ s.faulted = false ∧
    ((s.halted = true ∧ t = setReport s (.returned (-1))) ∨
     (s.halted = false ∧ fetch s = none ∧ t = setReport (halt s) (.returned (-1))) ∨
     (s.halted = false ∧ ∃ rec i u, fetch s = some rec ∧ decode rec = .ok i ∧ run i s = .next u ∧
       t = if u.faulted then u else endOfStep rec.line u)) := by
  unfold stepWith at h
  split at h
  · cases h
  · next hc =>
    split at h
    · cases h
    · next hf =>
      refine ⟨by simpa using hc, eq_false_of_ne_true hf, ?_⟩
      split at h
      · next hh =>
        cases h
        exact Or.inl ⟨hh, rfl⟩
      · next hh =>
        split at h
        · next hn =>
          cases h
          exact Or.inr (Or.inl ⟨eq_false_of_ne_true hh, hn, rfl⟩)
        · next rec hr =>
          split at h
          · cases h
          · next i hd =>
            refine Or.inr (Or.inr ⟨eq_false_of_ne_true hh, rec, i, ?_⟩)
            cases hu : run i s with
            | next u =>
              rw [hu] at h
              cases h
              exact ⟨u, hr, hd, rfl, rfl⟩
            | fault f =>
              rw [hu] at h
              cases h
            | refused r =>
              rw [hu] at h
              cases h

end Sys2Proof.Machine
end

