-- ==== Sys2Proof/Laws/Store.lean ====
section
/-! SUPPORT. What reading and writing an operand leaves alone, and that writing one stores the value in the sense of
Safety.lean. -/

namespace Sys2Proof.Machine

-- ## Reads: everything but the keyboard and the draw counter stays
@[simp] theorem touch_cs (s : State) (op : Operand) : (touch s op).cs = s.cs := by
  rcases touch_cases s op with h | h | ⟨e, l, -, h⟩ <;> simp [h]
@[simp] theorem memTouch_cs (s : State) (a : Word) : (memTouch s a).cs = s.cs := touch_cs s (.mem (.abs a))
@[simp] theorem touch_halted (s : State) (op : Operand) : (touch s op).halted = s.halted := by
  rcases touch_cases s op with h | h | ⟨e, l, -, h⟩ <;> simp [h]
@[simp] theorem memTouch_halted (s : State) (a : Word) : (memTouch s a).halted = s.halted := touch_halted s (.mem (.abs a))
@[simp] theorem touch_faulted (s : State) (op : Operand) : (touch s op).faulted = s.faulted := by
  rcases touch_cases s op with h | h | ⟨e, l, -, h⟩ <;> simp [h]
@[simp] theorem memTouch_faulted (s : State) (a : Word) : (memTouch s a).faulted = s.faulted := touch_faulted s (.mem (.abs a))
@[simp] theorem touch_running (s : State) (op : Operand) : (touch s op).running = s.running := by
  rcases touch_cases s op with h | h | ⟨e, l, -, h⟩ <;> simp [h]
@[simp] theorem memTouch_running (s : State) (a : Word) : (memTouch s a).running = s.running := touch_running s (.mem (.abs a))
@[simp] theorem touch_bankB (s : State) (op : Operand) : (touch s op).bankB = s.bankB := by
  rcases touch_cases s op with h | h | ⟨e, l, -, h⟩ <;> simp [h]
@[simp] theorem memTouch_bankB (s : State) (a : Word) : (memTouch s a).bankB = s.bankB := touch_bankB s (.mem (.abs a))
@[simp] theorem touch_pixels (s : State) (op : Operand) : (touch s op).pixels = s.pixels := by
  rcases touch_cases s op with h | h | ⟨e, l, -, h⟩ <;> simp [h]
@[simp] theorem memTouch_pixels (s : State) (a : Word) : (memTouch s a).pixels = s.pixels := touch_pixels s (.mem (.abs a))
@[simp] theorem touch_console (s : State) (op : Operand) : (touch s op).console = s.console := by
  rcases touch_cases s op with h | h | ⟨e, l, -, h⟩ <;> simp [h]
@[simp] theorem memTouch_console (s : State) (a : Word) : (memTouch s a).console = s.console := touch_console s (.mem (.abs a))
@[simp] theorem touch_bps (s : State) (op : Operand) : (touch s op).bps = s.bps := by
  rcases touch_cases s op with h | h | ⟨e, l, -, h⟩ <;> simp [h]
@[simp] theorem memTouch_bps (s : State) (a : Word) : (memTouch s a).bps = s.bps := touch_bps s (.mem (.abs a))
@[simp] theorem touch_prog (s : State) (op : Operand) : (touch s op).prog = s.prog := by
  rcases touch_cases s op with h | h | ⟨e, l, -, h⟩ <;> simp [h]
@[simp] theorem memTouch_prog (s : State) (a : Word) : (memTouch s a).prog = s.prog := touch_prog s (.mem (.abs a))
@[simp] theorem touch_labels (s : State) (op : Operand) : (touch s op).labels = s.labels := by
  rcases touch_cases s op with h | h | ⟨e, l, -, h⟩ <;> simp [h]
@[simp] theorem memTouch_labels (s : State) (a : Word) : (memTouch s a).labels = s.labels := touch_labels s (.mem (.abs a))
@[simp] theorem touch_report (s : State) (op : Operand) : (touch s op).report = s.report := by
  rcases touch_cases s op with h | h | ⟨e, l, -, h⟩ <;> simp [h]
@[simp] theorem memTouch_report (s : State) (a : Word) : (memTouch s a).report = s.report := touch_report s (.mem (.abs a))

-- ## Writes: everything but registers, memory and pixels stays
@[simp] theorem memPoke_cfg (s : State) (a : Word) (n : Nat) (v : Word) : (memPoke s a n v).cfg = s.cfg := by
  rcases memPoke_cases s a n v with h | ⟨i, -, h⟩ | ⟨-, h⟩ <;> simp [h]
@[simp] theorem poke_cfg (s : State) (op : Operand) (v : Word) : (poke s op v).cfg = s.cfg := by
  cases op <;> simp [poke]
@[simp] theorem memPoke_flags (s : State) (a : Word) (n : Nat) (v : Word) : (memPoke s a n v).flags = s.flags := by
  rcases memPoke_cases s a n v with h | ⟨i, -, h⟩ | ⟨-, h⟩ <;> simp [h]
@[simp] theorem poke_flags (s : State) (op : Operand) (v : Word) : (poke s op v).flags = s.flags := by
  cases op <;> simp [poke]
@[simp] theorem memPoke_pc (s : State) (a : Word) (n : Nat) (v : Word) : (memPoke s a n v).pc = s.pc := by
  rcases memPoke_cases s a n v with h | ⟨i, -, h⟩ | ⟨-, h⟩ <;> simp [h]
@[simp] theorem poke_pc (s : State) (op : Operand) (v : Word) : (poke s op v).pc = s.pc := by
  cases op <;> simp [poke]
@[simp] theorem memPoke_cs (s : State) (a : Word) (n : Nat) (v : Word) : (memPoke s a n v).cs = s.cs := by
  rcases memPoke_cases s a n v with h | ⟨i, -, h⟩ | ⟨-, h⟩ <;> simp [h]
@[simp] theorem poke_cs (s : State) (op : Operand) (v : Word) : (poke s op v).cs = s.cs := by
  cases op <;> simp [poke]
@[simp] theorem memPoke_halted (s : State) (a : Word) (n : Nat) (v : Word) : (memPoke s a n v).halted = s.halted := by
  rcases memPoke_cases s a n v with h | ⟨i, -, h⟩ | ⟨-, h⟩ <;> simp [h]
@[simp] theorem poke_halted (s : State) (op : Operand) (v : Word) : (poke s op v).halted = s.halted := by
  cases op <;> simp [poke]
@[simp] theorem memPoke_faulted (s : State) (a : Word) (n : Nat) (v : Word) : (memPoke s a n v).faulted = s.faulted := by
  rcases memPoke_cases s a n v with h | ⟨i, -, h⟩ | ⟨-, h⟩ <;> simp [h]
@[simp] theorem poke_faulted (s : State) (op : Operand) (v : Word) : (poke s op v).faulted = s.faulted := by
  cases op <;> simp [poke]
@[simp] theorem memPoke_running (s : State) (a : Word) (n : Nat) (v : Word) : (memPoke s a n v).running = s.running := by
  rcases memPoke_cases s a n v with h | ⟨i, -, h⟩ | ⟨-, h⟩ <;> simp [h]
@[simp] theorem poke_running (s : State) (op : Operand) (v : Word) : (poke s op v).running = s.running := by
  cases op <;> simp [poke]
@[simp] theorem memPoke_mode (s : State) (a : Word) (n : Nat) (v : Word) : (memPoke s a n v).mode = s.mode := by
  rcases memPoke_cases s a n v with h | ⟨i, -, h⟩ | ⟨-, h⟩ <;> simp [h]
@[simp] theorem poke_mode (s : State) (op : Operand) (v : Word) : (poke s op v).mode = s.mode := by
  cases op <;> simp [poke]
@[simp] theorem memPoke_bankB (s : State) (a : Word) (n : Nat) (v : Word) : (memPoke s a n v).bankB = s.bankB := by
  rcases memPoke_cases s a n v with h | ⟨i, -, h⟩ | ⟨-, h⟩ <;> simp [h]
@[simp] theorem poke_bankB (s : State) (op : Operand) (v : Word) : (poke s op v).bankB = s.bankB := by
  cases op <;> simp [poke]
@[simp] theorem memPoke_kq (s : State) (a : Word) (n : Nat) (v : Word) : (memPoke s a n v).kq = s.kq := by
  rcases memPoke_cases s a n v with h | ⟨i, -, h⟩ | ⟨-, h⟩ <;> simp [h]
@[simp] theorem poke_kq (s : State) (op : Operand) (v : Word) : (poke s op v).kq = s.kq := by
  cases op <;> simp [poke]
@[simp] theorem memPoke_lastCode (s : State) (a : Word) (n : Nat) (v : Word) : (memPoke s a n v).lastCode = s.lastCode := by
  rcases memPoke_cases s a n v with h | ⟨i, -, h⟩ | ⟨-, h⟩ <;> simp [h]
@[simp] theorem poke_lastCode (s : State) (op : Operand) (v : Word) : (poke s op v).lastCode = s.lastCode := by
  cases op <;> simp [poke]
@[simp] theorem memPoke_lastState (s : State) (a : Word) (n : Nat) (v : Word) : (memPoke s a n v).lastState = s.lastState := by
  rcases memPoke_cases s a n v with h | ⟨i, -, h⟩ | ⟨-, h⟩ <;> simp [h]
@[simp] theorem poke_lastState (s : State) (op : Operand) (v : Word) : (poke s op v).lastState = s.lastState := by
  cases op <;> simp [poke]
@[simp] theorem memPoke_console (s : State) (a : Word) (n : Nat) (v : Word) : (memPoke s a n v).console = s.console := by
  rcases memPoke_cases s a n v with h | ⟨i, -, h⟩ | ⟨-, h⟩ <;> simp [h]
@[simp] theorem poke_console (s : State) (op : Operand) (v : Word) : (poke s op v).console = s.console := by
  cases op <;> simp [poke]
@[simp] theorem memPoke_bps (s : State) (a : Word) (n : Nat) (v : Word) : (memPoke s a n v).bps = s.bps := by
  rcases memPoke_cases s a n v with h | ⟨i, -, h⟩ | ⟨-, h⟩ <;> simp [h]
@[simp] theorem poke_bps (s : State) (op : Operand) (v : Word) : (poke s op v).bps = s.bps := by
  cases op <;> simp [poke]
@[simp] theorem memPoke_prog (s : State) (a : Word) (n : Nat) (v : Word) : (memPoke s a n v).prog = s.prog := by
  rcases memPoke_cases s a n v with h | ⟨i, -, h⟩ | ⟨-, h⟩ <;> simp [h]
@[simp] theorem poke_prog (s : State) (op : Operand) (v : Word) : (poke s op v).prog = s.prog := by
  cases op <;> simp [poke]
@[simp] theorem memPoke_labels (s : State) (a : Word) (n : Nat) (v : Word) : (memPoke s a n v).labels = s.labels := by
  rcases memPoke_cases s a n v with h | ⟨i, -, h⟩ | ⟨-, h⟩ <;> simp [h]
@[simp] theorem poke_labels (s : State) (op : Operand) (v : Word) : (poke s op v).labels = s.labels := by
  cases op <;> simp [poke]
@[simp] theorem memPoke_draws (s : State) (a : Word) (n : Nat) (v : Word) : (memPoke s a n v).draws = s.draws := by
  rcases memPoke_cases s a n v with h | ⟨i, -, h⟩ | ⟨-, h⟩ <;> simp [h]
@[simp] theorem poke_draws (s : State) (op : Operand) (v : Word) : (poke s op v).draws = s.draws := by
  cases op <;> simp [poke]
@[simp] theorem memPoke_report (s : State) (a : Word) (n : Nat) (v : Word) : (memPoke s a n v).report = s.report := by
  rcases memPoke_cases s a n v with h | ⟨i, -, h⟩ | ⟨-, h⟩ <;> simp [h]
@[simp] theorem poke_report (s : State) (op : Operand) (v : Word) : (poke s op v).report = s.report := by
  cases op <;> simp [poke]
@[simp] theorem memPoke_regs (s : State) (a : Word) (n : Nat) (v : Word) : (memPoke s a n v).regs = s.regs := by
  rcases memPoke_cases s a n v with h | ⟨i, -, h⟩ | ⟨-, h⟩ <;> simp [h]
@[simp] theorem getReg_memPoke (s : State) (a : Word) (n : Nat) (v : Word) (r : Reg32) :
    getReg (memPoke s a n v) r = getReg s r := by simp [getReg]

-- ## Equal parts

theorem SameMemory.refl (s : State) : SameMemory s s := ⟨fun _ => rfl, fun _ => rfl⟩

/-- States with the same configuration, bank A and pixels have the same memory. -/
theorem SameMemory.of_eq {s t : State} (hc : t.cfg = s.cfg) (ha : t.bankA = s.bankA) (hp : t.pixels = s.pixels) :
    SameMemory s t := ⟨fun a => by simp [bankByte, hc, ha], fun i => by rw [hp]⟩

theorem SameMemory.symm {s t : State} (h : SameMemory s t) : SameMemory t s :=
  ⟨fun a => (h.bytes a).symm, fun i => (h.pixels i).symm⟩

theorem SameMemory.trans {s t u : State} (h : SameMemory s t) (h2 : SameMemory t u) : SameMemory s u :=
  ⟨fun a => (h2.bytes a).trans (h.bytes a), fun i => (h2.pixels i).trans (h.pixels i)⟩

theorem bankByte_congr {s t : State} (hc : t.cfg = s.cfg) (ha : t.bankA = s.bankA) (x : Nat) :
    bankByte t x = bankByte s x := by simp [bankByte, hc, ha]

-- ## What a write stores

/-- The byte of a word at a byte position. -/
theorem byte_shift (v : Word) (i : Nat) : (v >>> 8).extractLsb' (8 * i) 8 = v.extractLsb' (8 * (i + 1)) 8 := by
  ext j hj
  simp [BitVec.getElem_extractLsb']
  congr 1
  ring

/-- Each written byte reads back (20_memory.md R51). -/
theorem Memory.read_writeBytes_in {m : Memory} (h : m.wf) (a n : Nat) (v : Word) {i : Nat} (hi : i < n) :
    (m.writeBytes a n v).read (a + i) = v.extractLsb' (8 * i) 8 := by
  induction n generalizing m a v i with
  | zero => omega
  | succ n ih =>
    cases i with
    | zero =>
      rw [Memory.writeBytes, Memory.read_writeBytes_other _ _ _ _ (by omega), Nat.add_zero,
        Memory.read_write_same h]
      ext j hj
      simp [BitVec.getElem_extractLsb']
    | succ i =>
      have := ih (Memory.write_wf h a (v.setWidth 8)) (a + 1) (v >>> 8) (i := i) (by omega)
      rw [Memory.writeBytes, show a + (i + 1) = a + 1 + i by omega, this, byte_shift]

/-- A write that completes stores its value. -/
theorem storedAt_memPoke {s : State} (ha : s.bankA.wf) (hp : s.pixels.wf) {a : Word} {n : Nat} {v : Word}
    (hw : memWriteOk s a n = true) : StoredAt s a n v (memPoke s a n v) := by
  unfold StoredAt
  unfold memWriteOk isMmio at hw
  split
  · next hc =>
    have hm : isMmio s.cfg a.toNat = true := by simp [isMmio, hc]
    have hlt : a.toNat - s.cfg.lcdBase < s.cfg.lcdW * s.cfg.lcdH := by
      unfold classify at hc
      split at hc
      · omega
      · split at hc
        · cases hc
        · split at hc <;> cases hc
    have e : memPoke s a n v = setPixels s (s.pixels.write (a.toNat - s.cfg.lcdBase) (v.setWidth 8)) := by
      simp [memPoke, hm, devPoke, hc, hlt]
    rw [e]
    exact ⟨Memory.read_write_same hp _ _, fun i hi => Memory.read_write_other _ _ hi, fun x => rfl⟩
  · next hc =>
    have hm : isMmio s.cfg a.toNat = true := by simp [isMmio, hc]
    have e : memPoke s a n v = s := by simp [memPoke, hm, devPoke, hc]
    rw [e]
    exact SameMemory.refl s
  all_goals
    next hc =>
      have hm : isMmio s.cfg a.toNat = false := by simp [isMmio, hc]
      have e : memPoke s a n v = setBankA s (s.bankA.writeBytes a.toNat n v) := by simp [memPoke, hm]
      simp only [hc, Bool.false_or, Bool.and_eq_true, decide_eq_true_eq] at hw
      rw [e]
      refine ⟨fun i hi => ?_, fun x hx => ?_, fun i => rfl⟩
      · show (if _ then _ else _) = _
        rw [if_pos (by show _ < s.cfg.memSize; omega)]
        exact Memory.read_writeBytes_in ha _ _ _ hi
      · show (if _ then _ else _) = (if _ then _ else _)
        rw [show (setBankA s (s.bankA.writeBytes a.toNat n v)).bankA.read x = s.bankA.read x from
          Memory.read_writeBytes_other _ _ _ _ hx]
        rfl

/-- Writing an 8-bit register sets its byte and keeps the other bits of its parent. -/
theorem getReg8_setReg8_same (s : State) (r : Reg8) (b : Byte) : getReg8 (setReg8 s r b) r = b := by
  unfold getReg8 setReg8
  rw [getReg_setReg_same]
  ext i hi
  have h : i = 0 ∨ i = 1 ∨ i = 2 ∨ i = 3 ∨ i = 4 ∨ i = 5 ∨ i = 6 ∨ i = 7 := by omega
  rcases h with rfl | rfl | rfl | rfl | rfl | rfl | rfl | rfl <;> cases r <;> simp [putByte, reg8Offset]

theorem getLsbD_setReg8 (s : State) (r : Reg8) (b : Byte) {i : Nat} (hi : i < reg8Offset r ∨ reg8Offset r + 8 ≤ i) :
    (getReg (setReg8 s r b) (reg8Parent r)).getLsbD i = (getReg s (reg8Parent r)).getLsbD i := by
  unfold setReg8
  rw [getReg_setReg_same]
  by_cases h32 : i < 32
  · cases r <;> simp only [reg8Offset] at hi <;> simp [putByte, reg8Offset, h32] <;>
      interval_cases i <;> simp_all
  · rw [BitVec.getLsbD_of_ge _ _ (by omega), BitVec.getLsbD_of_ge _ _ (by omega)]

/-- Writing an operand stores the value in it. -/
theorem stored_poke {s : State} (ha : s.bankA.wf) (hp : s.pixels.wf) {op : Operand} (hw : writeOk s op = true)
    (v : Word) : Stored s op v (poke s op v) := by
  cases op with
  | reg32 r =>
    exact ⟨getReg_setReg_same s r v, fun q hq => getReg_setReg_other s r q v (by simpa using hq),
      SameMemory.of_eq rfl rfl rfl⟩
  | reg8 r =>
    refine ⟨getReg8_setReg8_same s r _, fun i hi => getLsbD_setReg8 s r _ hi, fun q hq => ?_,
      SameMemory.of_eq rfl rfl rfl⟩
    exact getReg_setReg_other s _ q _ (by simpa using hq)
  | mem m => exact ⟨fun r _ => by simp [poke], storedAt_memPoke ha hp hw⟩
  | imm _ => exact ⟨fun _ _ => rfl, SameMemory.refl s⟩
  | malformed _ => exact ⟨fun _ _ => rfl, SameMemory.refl s⟩
  | unshown _ => exact ⟨fun _ _ => rfl, SameMemory.refl s⟩

@[simp] theorem ea_memTouch (s : State) (a : Word) (m : MemShape) : ea (memTouch s a) m = ea s m :=
  ea_touch s (.mem (.abs a)) m

@[simp] theorem ea_setPc (s : State) (n : Nat) (m : MemShape) : ea (setPc s n) m = ea s m := by
  cases m <;> rfl

@[simp] theorem ea_setFlags (s : State) (f : Word) (m : MemShape) : ea (setFlags s f) m = ea s m := by
  cases m <;> rfl

/-- What it takes to have stored a value depends on the memory and pixels before and after alone. -/
theorem StoredAt.congr {s t s' t' : State} {a v : Word} {n : Nat} (h : StoredAt s a n v t) (hc : s'.cfg = s.cfg)
    (ha : s'.bankA = s.bankA) (hp : s'.pixels = s.pixels) (hc' : t'.cfg = t.cfg) (ha' : t'.bankA = t.bankA)
    (hp' : t'.pixels = t.pixels) : StoredAt s' a n v t' := by
  have hb : ∀ x, bankByte s' x = bankByte s x := bankByte_congr hc ha
  have hb' : ∀ x, bankByte t' x = bankByte t x := bankByte_congr hc' ha'
  unfold StoredAt at h ⊢
  rw [hc]
  split at h
  · exact ⟨by rw [hp']; exact h.1, fun i hi => by rw [hp', hp]; exact h.2.1 i hi,
      fun x => by rw [hb', hb]; exact h.2.2 x⟩
  · exact ((SameMemory.of_eq hc ha hp).symm.trans h).trans (SameMemory.of_eq hc' ha' hp')
  all_goals
    exact ⟨fun i hi => by rw [hb']; exact h.1 i hi, fun x hx => by rw [hb', hb]; exact h.2.1 x hx,
      fun i => by rw [hp', hp]; exact h.2.2 i⟩

/-- What is stored depends on registers, memory and pixels alone. -/
theorem Stored.congr {s t u : State} {op : Operand} {v : Word} (h : Stored s op v t) (hr : u.regs = t.regs)
    (hc : u.cfg = t.cfg) (ha : u.bankA = t.bankA) (hp : u.pixels = t.pixels) : Stored s op v u := by
  have hg : ∀ r, getReg u r = getReg t r := getReg_congr hr
  have hg8 : ∀ r, getReg8 u r = getReg8 t r := fun r => by simp [getReg8, hg]
  have hb : ∀ x, bankByte u x = bankByte t x := bankByte_congr hc ha
  have hm : SameMemory t u := SameMemory.of_eq hc ha hp
  cases op with
  | reg32 r => exact ⟨(hg r).trans h.1, fun q hq => (hg q).trans (h.2.1 q hq), h.2.2.trans hm⟩
  | reg8 r =>
    exact ⟨(hg8 r).trans h.1, fun i hi => by rw [hg]; exact h.2.1 i hi, fun q hq => (hg q).trans (h.2.2.1 q hq),
      h.2.2.2.trans hm⟩
  | mem m =>
    refine ⟨fun q hq => (hg q).trans (h.1 q hq), ?_⟩
    have h2 := h.2
    unfold StoredAt at h2 ⊢
    split at h2
    · exact ⟨by rw [hp]; exact h2.1, fun i hi => by rw [hp]; exact h2.2.1 i hi, fun x => (hb x).trans (h2.2.2 x)⟩
    · exact h2.trans hm
    · exact ⟨fun i hi => (hb _).trans (h2.1 i hi), fun x hx => (hb x).trans (h2.2.1 x hx),
        fun i => by rw [hp]; exact h2.2.2 i⟩
    · exact ⟨fun i hi => (hb _).trans (h2.1 i hi), fun x hx => (hb x).trans (h2.2.1 x hx),
        fun i => by rw [hp]; exact h2.2.2 i⟩
  | imm _ => exact ⟨fun q hq => (hg q).trans (h.1 q hq), h.2.trans hm⟩
  | malformed _ => exact ⟨fun q hq => (hg q).trans (h.1 q hq), h.2.trans hm⟩
  | unshown _ => exact ⟨fun q hq => (hg q).trans (h.1 q hq), h.2.trans hm⟩

-- ## Flags

/-- Every bit of a bitset with one flag replaced. -/
theorem getLsbD_putFlag (f : Word) (i : Nat) (b : Bool) (hi : i < 32) (j : Nat) :
    (putFlag f i b).getLsbD j = if j = i then b else f.getLsbD j := by
  unfold putFlag
  by_cases hj : j < 32
  · by_cases h : j = i
    · subst h
      cases b <;> simp [hj]
    · have : ¬(i ≤ j ∧ j - i = 0) := by omega
      cases b <;> simp [hj, h] <;> omega
  · rw [BitVec.getLsbD_of_ge _ _ (by omega), BitVec.getLsbD_of_ge _ _ (by omega), if_neg (by omega)]

/-- Every bit of a bitset with the four flags replaced. -/
theorem getLsbD_putFlags (f : Word) (c z n o : Bool) (j : Nat) :
    (putFlags f c z n o).getLsbD j =
      if j = 11 then o else if j = 7 then n else if j = 6 then z else if j = 0 then c else f.getLsbD j := by
  simp [putFlags, putOf, putSf, putZf, putCf, getLsbD_putFlag]

end Sys2Proof.Machine
end

