-- ==== Sys2Proof/Laws/Invariant.lean ====
section
/-! SUPPORT. Every operation that writes memory or the pixel buffer keeps its canonical form and its bound, and the
memories after reset have them. -/

namespace Sys2Proof.Machine

-- ## Devices

theorem devPoke_pixels_wf {s : State} (h : s.pixels.wf) (a : Nat) (b : Byte) : (devPoke s a b).pixels.wf := by
  unfold devPoke
  split
  · split
    · exact Memory.write_wf h _ _
    · exact h
  all_goals exact h

theorem devPoke_pixels_below {s : State} (h : s.pixels.below (s.cfg.lcdW * s.cfg.lcdH)) (a : Nat) (b : Byte) :
    (devPoke s a b).pixels.below (s.cfg.lcdW * s.cfg.lcdH) := by
  unfold devPoke
  split
  · split
    · next hlt => exact Memory.write_below h hlt _
    · exact h
  all_goals exact h

@[simp] theorem devPoke_bankA (s : State) (a : Nat) (b : Byte) : (devPoke s a b).bankA = s.bankA := by
  unfold devPoke
  split
  · split <;> rfl
  all_goals rfl

-- ## Memory accesses

theorem memPoke_bankA_wf {s : State} (h : s.bankA.wf) (a : Word) (n : Nat) (v : Word) : (memPoke s a n v).bankA.wf := by
  unfold memPoke
  split
  · rw [devPoke_bankA]
    exact h
  · exact Memory.writeBytes_wf h _ _ _

theorem memPoke_bankA_below {s : State} (h : s.bankA.below s.cfg.memSize) {a : Word} {n : Nat}
    (hw : memWriteOk s a n = true) (v : Word) : (memPoke s a n v).bankA.below s.cfg.memSize := by
  unfold memPoke
  split
  · rw [devPoke_bankA]
    exact h
  · next hm =>
    have hn : a.toNat + n ≤ s.cfg.memSize := by
      simp only [memWriteOk, Bool.or_eq_true, Bool.and_eq_true, decide_eq_true_eq] at hw
      rcases hw with hw | hw
      · exact absurd hw hm
      · exact hw.2
    exact Memory.writeBytes_below h hn _

theorem memPoke_pixels_wf {s : State} (h : s.pixels.wf) (a : Word) (n : Nat) (v : Word) :
    (memPoke s a n v).pixels.wf := by
  unfold memPoke
  split
  · exact devPoke_pixels_wf h _ _
  · exact h

theorem memPoke_pixels_below {s : State} (h : s.pixels.below (s.cfg.lcdW * s.cfg.lcdH)) (a : Word) (n : Nat)
    (v : Word) : (memPoke s a n v).pixels.below (s.cfg.lcdW * s.cfg.lcdH) := by
  unfold memPoke
  split
  · exact devPoke_pixels_below h _ _
  · exact h

-- ## Operands

theorem poke_bankA_wf {s : State} (h : s.bankA.wf) (op : Operand) (v : Word) : (poke s op v).bankA.wf := by
  cases op with
  | mem m => exact memPoke_bankA_wf h _ _ _
  | _ => exact h

theorem poke_bankA_below {s : State} (h : s.bankA.below s.cfg.memSize) {op : Operand} (hw : writeOk s op = true)
    (v : Word) : (poke s op v).bankA.below s.cfg.memSize := by
  cases op with
  | mem m => exact memPoke_bankA_below h hw _
  | _ => exact h

theorem poke_pixels_wf {s : State} (h : s.pixels.wf) (op : Operand) (v : Word) : (poke s op v).pixels.wf := by
  cases op with
  | mem m => exact memPoke_pixels_wf h _ _ _
  | _ => exact h

theorem poke_pixels_below {s : State} (h : s.pixels.below (s.cfg.lcdW * s.cfg.lcdH)) (op : Operand) (v : Word) :
    (poke s op v).pixels.below (s.cfg.lcdW * s.cfg.lcdH) := by
  cases op with
  | mem m => exact memPoke_pixels_below h _ _ _
  | _ => exact h

-- ## The Faulted state

/-- What stands in the memories after a fault is free, but has the form. -/
theorem takeFault_bankA_wf {s : State} (h : s.bankA.wf) (e : EngineFault) : (takeFault e s).bankA.wf := by
  cases he : e.early <;> simp only [takeFault, he]
  · exact Memory.ofCells_wf _ _
  · exact h

theorem takeFault_bankA_below {s : State} (h : s.bankA.below s.cfg.memSize) (e : EngineFault) :
    (takeFault e s).bankA.below s.cfg.memSize := by
  cases he : e.early <;> simp only [takeFault, he]
  · exact Memory.ofCells_below _ _
  · exact h

theorem takeFault_pixels_wf {s : State} (h : s.pixels.wf) (e : EngineFault) : (takeFault e s).pixels.wf := by
  cases he : e.early <;> simp only [takeFault, he]
  · exact Memory.ofCells_wf _ _
  · exact h

theorem takeFault_pixels_below {s : State} (h : s.pixels.below (s.cfg.lcdW * s.cfg.lcdH)) (e : EngineFault) :
    (takeFault e s).pixels.below (s.cfg.lcdW * s.cfg.lcdH) := by
  cases he : e.early <;> simp only [takeFault, he]
  · exact Memory.ofCells_below _ _
  · exact h

-- ## Reset

/-- The memories of a new engine instance have the form. -/
theorem fresh_memory_wf (c : Config) :
    (State.fresh c).bankA.wf ∧ (State.fresh c).bankB.wf ∧ (State.fresh c).pixels.wf :=
  ⟨Memory.wf_nil, Memory.wf_nil, Memory.wf_nil⟩

/-- RESET leaves memories of the form (70_reset_and_hazards.md R225). -/
theorem hostReset_memory_wf (s : State) :
    (hostReset s).bankA.wf ∧ (hostReset s).bankB.wf ∧ (hostReset s).pixels.wf :=
  ⟨Memory.wf_nil, Memory.wf_nil, Memory.wf_nil⟩

end Sys2Proof.Machine
end

