-- ==== Sys2Proof/Laws/PerInstr.lean ====
section
/-! SUPPORT. A property of every instruction as syntax, instruction by instruction: its record names it, with one token
for each operand. -/

namespace Sys2Proof.Laws.SameMnemonic

open Sys2Proof Sys2Proof.Machine

/-- The record that encodes the instruction selects its mnemonic (30_encoding.md R70) and has as many operand tokens as
the instruction has operands (30_encoding.md R88). -/
def Statement (i : Instr) : Prop :=
  mnemonicOf (upper (encode i).mnemonic) = some i.mnemonic ∧ (encode i).operands.length = i.arity

/-- The name of a mnemonic selects it. -/
theorem name_selects (m : Mnemonic) : mnemonicOf (upper m.name) = some m := by cases m <;> decide

theorem mov (ops : List Operand) : Statement (.mov ops) := ⟨name_selects .mov, List.length_map _⟩
theorem cmovo (ops : List Operand) : Statement (.cmovo ops) := ⟨name_selects .cmovo, List.length_map _⟩
theorem cmovno (ops : List Operand) : Statement (.cmovno ops) := ⟨name_selects .cmovno, List.length_map _⟩
theorem cmovb (ops : List Operand) : Statement (.cmovb ops) := ⟨name_selects .cmovb, List.length_map _⟩
theorem cmovae (ops : List Operand) : Statement (.cmovae ops) := ⟨name_selects .cmovae, List.length_map _⟩
theorem cmove (ops : List Operand) : Statement (.cmove ops) := ⟨name_selects .cmove, List.length_map _⟩
theorem cmovz (ops : List Operand) : Statement (.cmovz ops) := ⟨name_selects .cmovz, List.length_map _⟩
theorem cmovne (ops : List Operand) : Statement (.cmovne ops) := ⟨name_selects .cmovne, List.length_map _⟩
theorem cmovnz (ops : List Operand) : Statement (.cmovnz ops) := ⟨name_selects .cmovnz, List.length_map _⟩
theorem cmovbe (ops : List Operand) : Statement (.cmovbe ops) := ⟨name_selects .cmovbe, List.length_map _⟩
theorem cmova (ops : List Operand) : Statement (.cmova ops) := ⟨name_selects .cmova, List.length_map _⟩
theorem cmovs (ops : List Operand) : Statement (.cmovs ops) := ⟨name_selects .cmovs, List.length_map _⟩
theorem cmovns (ops : List Operand) : Statement (.cmovns ops) := ⟨name_selects .cmovns, List.length_map _⟩
theorem cmovl (ops : List Operand) : Statement (.cmovl ops) := ⟨name_selects .cmovl, List.length_map _⟩
theorem cmovge (ops : List Operand) : Statement (.cmovge ops) := ⟨name_selects .cmovge, List.length_map _⟩
theorem cmovle (ops : List Operand) : Statement (.cmovle ops) := ⟨name_selects .cmovle, List.length_map _⟩
theorem cmovg (ops : List Operand) : Statement (.cmovg ops) := ⟨name_selects .cmovg, List.length_map _⟩
theorem push (ops : List Operand) : Statement (.push ops) := ⟨name_selects .push, List.length_map _⟩
theorem pop (ops : List Operand) : Statement (.pop ops) := ⟨name_selects .pop, List.length_map _⟩
theorem lahf (ops : List Operand) : Statement (.lahf ops) := ⟨name_selects .lahf, List.length_map _⟩
theorem sahf (ops : List Operand) : Statement (.sahf ops) := ⟨name_selects .sahf, List.length_map _⟩
theorem bswap (ops : List Operand) : Statement (.bswap ops) := ⟨name_selects .bswap, List.length_map _⟩
theorem add (ops : List Operand) : Statement (.add ops) := ⟨name_selects .add, List.length_map _⟩
theorem sub (ops : List Operand) : Statement (.sub ops) := ⟨name_selects .sub, List.length_map _⟩
theorem cmp (ops : List Operand) : Statement (.cmp ops) := ⟨name_selects .cmp, List.length_map _⟩
theorem inc (ops : List Operand) : Statement (.inc ops) := ⟨name_selects .inc, List.length_map _⟩
theorem dec (ops : List Operand) : Statement (.dec ops) := ⟨name_selects .dec, List.length_map _⟩
theorem neg (ops : List Operand) : Statement (.neg ops) := ⟨name_selects .neg, List.length_map _⟩
theorem xadd (ops : List Operand) : Statement (.xadd ops) := ⟨name_selects .xadd, List.length_map _⟩
theorem and (ops : List Operand) : Statement (.and ops) := ⟨name_selects .and, List.length_map _⟩
theorem or (ops : List Operand) : Statement (.or ops) := ⟨name_selects .or, List.length_map _⟩
theorem xor (ops : List Operand) : Statement (.xor ops) := ⟨name_selects .xor, List.length_map _⟩
theorem test (ops : List Operand) : Statement (.test ops) := ⟨name_selects .test, List.length_map _⟩
theorem bsf (ops : List Operand) : Statement (.bsf ops) := ⟨name_selects .bsf, List.length_map _⟩
theorem bsr (ops : List Operand) : Statement (.bsr ops) := ⟨name_selects .bsr, List.length_map _⟩
theorem shl (ops : List Operand) : Statement (.shl ops) := ⟨name_selects .shl, List.length_map _⟩
theorem shr (ops : List Operand) : Statement (.shr ops) := ⟨name_selects .shr, List.length_map _⟩
theorem sar (ops : List Operand) : Statement (.sar ops) := ⟨name_selects .sar, List.length_map _⟩
theorem rol (ops : List Operand) : Statement (.rol ops) := ⟨name_selects .rol, List.length_map _⟩
theorem ror (ops : List Operand) : Statement (.ror ops) := ⟨name_selects .ror, List.length_map _⟩
theorem rcl (ops : List Operand) : Statement (.rcl ops) := ⟨name_selects .rcl, List.length_map _⟩
theorem rcr (ops : List Operand) : Statement (.rcr ops) := ⟨name_selects .rcr, List.length_map _⟩
theorem mul (ops : List Operand) : Statement (.mul ops) := ⟨name_selects .mul, List.length_map _⟩
theorem imul (ops : List Operand) : Statement (.imul ops) := ⟨name_selects .imul, List.length_map _⟩
theorem div (ops : List Operand) : Statement (.div ops) := ⟨name_selects .div, List.length_map _⟩
theorem idiv (ops : List Operand) : Statement (.idiv ops) := ⟨name_selects .idiv, List.length_map _⟩
theorem lods (ops : List Operand) : Statement (.lods ops) := ⟨name_selects .lods, List.length_map _⟩
theorem stos (ops : List Operand) : Statement (.stos ops) := ⟨name_selects .stos, List.length_map _⟩
theorem movs (ops : List Operand) : Statement (.movs ops) := ⟨name_selects .movs, List.length_map _⟩
theorem scas (ops : List Operand) : Statement (.scas ops) := ⟨name_selects .scas, List.length_map _⟩
theorem cmps (ops : List Operand) : Statement (.cmps ops) := ⟨name_selects .cmps, List.length_map _⟩
theorem int (ops : List Operand) : Statement (.int ops) := ⟨name_selects .int, List.length_map _⟩
theorem int3 (ops : List Operand) : Statement (.int3 ops) := ⟨name_selects .int3, List.length_map _⟩
theorem iret (ops : List Operand) : Statement (.iret ops) := ⟨name_selects .iret, List.length_map _⟩
theorem hlt (ops : List Operand) : Statement (.hlt ops) := ⟨name_selects .hlt, List.length_map _⟩
theorem jmp (ops : List Text) : Statement (.jmp ops) := ⟨name_selects .jmp, rfl⟩
theorem je (ops : List Text) : Statement (.je ops) := ⟨name_selects .je, rfl⟩
theorem jne (ops : List Text) : Statement (.jne ops) := ⟨name_selects .jne, rfl⟩
theorem jg (ops : List Text) : Statement (.jg ops) := ⟨name_selects .jg, rfl⟩
theorem jge (ops : List Text) : Statement (.jge ops) := ⟨name_selects .jge, rfl⟩
theorem jl (ops : List Text) : Statement (.jl ops) := ⟨name_selects .jl, rfl⟩
theorem jle (ops : List Text) : Statement (.jle ops) := ⟨name_selects .jle, rfl⟩
theorem js (ops : List Text) : Statement (.js ops) := ⟨name_selects .js, rfl⟩
theorem jns (ops : List Text) : Statement (.jns ops) := ⟨name_selects .jns, rfl⟩
theorem ja (ops : List Text) : Statement (.ja ops) := ⟨name_selects .ja, rfl⟩
theorem jae (ops : List Text) : Statement (.jae ops) := ⟨name_selects .jae, rfl⟩
theorem jb (ops : List Text) : Statement (.jb ops) := ⟨name_selects .jb, rfl⟩
theorem jbe (ops : List Text) : Statement (.jbe ops) := ⟨name_selects .jbe, rfl⟩
theorem call (ops : List Text) : Statement (.call ops) := ⟨name_selects .call, rfl⟩
theorem ret (ops : List Text) : Statement (.ret ops) := ⟨name_selects .ret, rfl⟩
theorem loop (ops : List Text) : Statement (.loop ops) := ⟨name_selects .loop, rfl⟩
theorem loope (ops : List Text) : Statement (.loope ops) := ⟨name_selects .loope, rfl⟩
theorem loopne (ops : List Text) : Statement (.loopne ops) := ⟨name_selects .loopne, rfl⟩
theorem loopz (ops : List Text) : Statement (.loopz ops) := ⟨name_selects .loopz, rfl⟩
theorem loopnz (ops : List Text) : Statement (.loopnz ops) := ⟨name_selects .loopnz, rfl⟩

end Sys2Proof.Laws.SameMnemonic
end

