-- ==== Sys2Proof/Tests/Slice0.lean ====
section
/-! SUPPORT. Our own tests: an ill-formed term for each check of WellFormed.lean, the decoding of a word for every
constructor, one-step tests from the vectors of 95_test_vectors.md (their names are in the docstrings), and for every
statement with hypotheses a state and operands that meet them. The words are the spec's records (30_encoding.md R92), a
character a byte, the first in the low byte (log entry 4). -/

namespace Sys2Proof.Tests

open Sys2Proof Sys2Proof.Machine

-- ## Ill-formed terms that each check refuses

theorem test_wf_mov : (Instr.mov [.imm 5, .reg32 .eax]).wf = false ∧ (Instr.mov [.reg8 .al, .imm 256]).wf = false ∧
    (Instr.mov [.reg8 .al, .mem (.reg .ebx)]).wf = false ∧ (Instr.mov [.reg32 .eax]).wf = false := by decide
theorem test_wf_binary : (Instr.add [.mem (.reg .ebx), .mem (.reg .ecx)]).wf = false ∧
    (Instr.sub [.reg8 .al, .reg32 .ebx]).wf = false ∧ (Instr.test [.imm 1, .reg32 .eax]).wf = false := by decide
theorem test_wf_unary : (Instr.inc [.imm 1]).wf = false ∧ (Instr.neg []).wf = false := by decide
theorem test_wf_xadd : (Instr.xadd [.reg32 .eax, .mem (.reg .ebx)]).wf = false ∧
    (Instr.xadd [.reg8 .al, .reg8 .bl]).wf = false := by decide
theorem test_wf_cmov : (Instr.cmove [.reg8 .al, .reg8 .bl]).wf = false ∧
    (Instr.cmovg [.reg32 .eax, .imm 1]).wf = false ∧ (Instr.cmovs [.imm 1, .reg8 .bl]).wf = false ∧
    (Instr.cmovo [.mem (.reg .ebx), .mem (.reg .ecx)]).wf = false ∧ (Instr.cmovg [.imm 2, .imm 1]).wf = false := by
  decide
theorem test_wf_scan : (Instr.bsf [.reg32 .eax, .imm 1]).wf = false ∧
    (Instr.bsr [.mem (.reg .ebx), .reg32 .eax]).wf = false := by decide
theorem test_wf_bswap : (Instr.bswap [.reg8 .al]).wf = false ∧ (Instr.bswap [.mem (.reg .ebx)]).wf = false := by decide
theorem test_wf_push : (Instr.push [.reg8 .al]).wf = false := by decide
theorem test_wf_reg_mem : (Instr.pop [.imm 1]).wf = false ∧ (Instr.mul [.imm 1]).wf = false ∧
    (Instr.imul [.reg32 .eax, .reg32 .ebx]).wf = false ∧ (Instr.div [.reg8 .bl]).wf = false := by decide
theorem test_wf_shift : (Instr.shl [.reg8 .al, .imm 1]).wf = false ∧ (Instr.rcr [.reg32 .eax]).wf = false ∧
    (Instr.sar [.reg32 .eax, .mem (.reg .ebx)]).wf = false := by decide
theorem test_wf_int : (Instr.int [.reg32 .eax]).wf = false := by decide
theorem test_wf_bare : (Instr.lahf [.reg32 .eax]).wf = false ∧ (Instr.lods [.imm 1]).wf = false ∧
    (Instr.hlt [.imm 1]).wf = false ∧ (Instr.ret ["t".toList]).wf = false := by decide
theorem test_wf_label : (Instr.jmp ["t".toList, "u".toList]).wf = false ∧ (Instr.call [" t".toList]).wf = false ∧
    (Instr.loop []).wf = false := by decide
theorem test_wf_failed_token : (Instr.mov [.reg32 .eax, .malformed "0x1G".toList]).wf = false ∧
    (Instr.push [.unshown "0X10".toList]).printable = false := by decide

-- ## A word for every constructor

set_option maxRecDepth 4000

/-- `MOV EAX,EBX`, `CMOVO EAX,ECX`, `CMOVNO EDX,EBX`, `CMOVB ESP,EBP`, `CMOVAE ESI,EDI`, `CMOVE EAX,[ECX]`, `CMOVZ
EAX,EBX`, `CMOVNE EAX,[16]`. -/
theorem test_decode_movement_1 :
    decodeTableWord 88 0x5842452c58414520564f4d = some (.mov [.reg32 .eax, .reg32 .ebx]) ∧
    decodeTableWord 104 0x5843452c584145204f564f4d43 = some (.cmovo [.reg32 .eax, .reg32 .ecx]) ∧
    decodeTableWord 112 0x5842452c584445204f4e564f4d43 = some (.cmovno [.reg32 .edx, .reg32 .ebx]) ∧
    decodeTableWord 104 0x5042452c5053452042564f4d43 = some (.cmovb [.reg32 .esp, .reg32 .ebp]) ∧
    decodeTableWord 112 0x4944452c495345204541564f4d43 = some (.cmovae [.reg32 .esi, .reg32 .edi]) ∧
    decodeTableWord 120 0x5d5843455b2c5841452045564f4d43 = some (.cmove [.reg32 .eax, .mem (.reg .ecx)]) ∧
    decodeTableWord 104 0x5842452c584145205a564f4d43 = some (.cmovz [.reg32 .eax, .reg32 .ebx]) ∧
    decodeTableWord 120 0x5d36315b2c58414520454e564f4d43 = some (.cmovne [.reg32 .eax, .mem (.abs 16)]) := by decide

/-- `CMOVNZ EAX,EBX`, `CMOVBE EAX,[EBX-4]`, `CMOVA EAX,[EBX+ESI]`, `CMOVS EAX,EBX`, `CMOVNS EAX,EBX`, `CMOVL EAX,EBX`,
`CMOVGE EAX,EBX`, `CMOVLE EAX,EBX`. -/
theorem test_decode_movement_2 :
    decodeTableWord 112 0x5842452c584145205a4e564f4d43 = some (.cmovnz [.reg32 .eax, .reg32 .ebx]) ∧
    decodeTableWord 144 0x5d342d5842455b2c584145204542564f4d43 = some (.cmovbe [.reg32 .eax, .mem (.regMinus .ebx 4)]) ∧
    decodeTableWord 152 0x5d4953452b5842455b2c5841452041564f4d43 =
      some (.cmova [.reg32 .eax, .mem (.regReg .ebx .esi)]) ∧
    decodeTableWord 104 0x5842452c5841452053564f4d43 = some (.cmovs [.reg32 .eax, .reg32 .ebx]) ∧
    decodeTableWord 112 0x5842452c58414520534e564f4d43 = some (.cmovns [.reg32 .eax, .reg32 .ebx]) ∧
    decodeTableWord 104 0x5842452c584145204c564f4d43 = some (.cmovl [.reg32 .eax, .reg32 .ebx]) ∧
    decodeTableWord 112 0x5842452c584145204547564f4d43 = some (.cmovge [.reg32 .eax, .reg32 .ebx]) ∧
    decodeTableWord 112 0x5842452c58414520454c564f4d43 = some (.cmovle [.reg32 .eax, .reg32 .ebx]) := by decide

/-- `CMOVG EAX,EBX`, `PUSH -2`, `POP [EBP+0x10]`, `LAHF`, `SAHF`, `BSWAP EDI`. -/
theorem test_decode_movement_3 :
    decodeTableWord 104 0x5842452c5841452047564f4d43 = some (.cmovg [.reg32 .eax, .reg32 .ebx]) ∧
    decodeTableWord 56 0x322d2048535550 = some (.push [.imm 0xFFFFFFFE]) ∧
    decodeTableWord 112 0x5d303178302b5042455b20504f50 = some (.pop [.mem (.regPlus .ebp 0x10)]) ∧
    decodeTableWord 32 0x4648414c = some (.lahf []) ∧
    decodeTableWord 32 0x46484153 = some (.sahf []) ∧
    decodeTableWord 72 0x494445205041575342 = some (.bswap [.reg32 .edi]) := by decide

/-- `ADD AL,5`, `SUB BH,DL`, `CMP EAX,'A'`, `INC AH`, `DEC CH`, `NEG [ESI]`, `XADD EAX,EBX`. -/
theorem test_decode_arithmetic :
    decodeTableWord 64 0x352c4c4120444441 = some (.add [.reg8 .al, .imm 5]) ∧
    decodeTableWord 72 0x4c442c484220425553 = some (.sub [.reg8 .bh, .reg8 .dl]) ∧
    decodeTableWord 88 0x2741272c58414520504d43 = some (.cmp [.reg32 .eax, .imm 0x41]) ∧
    decodeTableWord 48 0x484120434e49 = some (.inc [.reg8 .ah]) ∧
    decodeTableWord 48 0x484320434544 = some (.dec [.reg8 .ch]) ∧
    decodeTableWord 72 0x5d4953455b2047454e = some (.neg [.mem (.reg .esi)]) ∧
    decodeTableWord 96 0x5842452c5841452044444158 = some (.xadd [.reg32 .eax, .reg32 .ebx]) := by decide

/-- `AND [EBX+4],EAX`, `OR BL,DH`, `XOR ECX,0b101`, `TEST EAX,0x80`, `BSF EAX,EBX`, `BSR EBP,[EDI]`. -/
theorem test_decode_logical :
    decodeTableWord 120 0x5841452c5d342b5842455b20444e41 = some (.and [.mem (.regPlus .ebx 4), .reg32 .eax]) ∧
    decodeTableWord 64 0x48442c4c4220524f = some (.or [.reg8 .bl, .reg8 .dh]) ∧
    decodeTableWord 104 0x31303162302c58434520524f58 = some (.xor [.reg32 .ecx, .imm 5]) ∧
    decodeTableWord 104 0x303878302c5841452054534554 = some (.test [.reg32 .eax, .imm 0x80]) ∧
    decodeTableWord 88 0x5842452c58414520465342 = some (.bsf [.reg32 .eax, .reg32 .ebx]) ∧
    decodeTableWord 104 0x5d4944455b2c50424520525342 = some (.bsr [.reg32 .ebp, .mem (.reg .edi)]) := by decide

/-- `SHL EDX,CL`, `SHR EAX,4`, `SAR EAX,ECX`, `ROL [EBX],1`, `ROR EAX,8`, `RCL EAX,1`, `RCR EAX,2`. -/
theorem test_decode_shift :
    decodeTableWord 80 0x4c432c584445204c4853 = some (.shl [.reg32 .edx, .reg8 .cl]) ∧
    decodeTableWord 72 0x342c58414520524853 = some (.shr [.reg32 .eax, .imm 4]) ∧
    decodeTableWord 88 0x5843452c58414520524153 = some (.sar [.reg32 .eax, .reg32 .ecx]) ∧
    decodeTableWord 88 0x312c5d5842455b204c4f52 = some (.rol [.mem (.reg .ebx), .imm 1]) ∧
    decodeTableWord 72 0x382c58414520524f52 = some (.ror [.reg32 .eax, .imm 8]) ∧
    decodeTableWord 72 0x312c584145204c4352 = some (.rcl [.reg32 .eax, .imm 1]) ∧
    decodeTableWord 72 0x322c58414520524352 = some (.rcr [.reg32 .eax, .imm 2]) := by decide

/-- `MUL EBX`, `IMUL [ESP]`, `DIV EBX`, `IDIV ESI`. -/
theorem test_decode_multiply :
    decodeTableWord 56 0x584245204c554d = some (.mul [.reg32 .ebx]) ∧
    decodeTableWord 80 0x5d5053455b204c554d49 = some (.imul [.mem (.reg .esp)]) ∧
    decodeTableWord 56 0x58424520564944 = some (.div [.reg32 .ebx]) ∧
    decodeTableWord 64 0x4953452056494449 = some (.idiv [.reg32 .esi]) := by decide

/-- `LODS`, `STOS`, `MOVS`, `SCAS`, `CMPS`. -/
theorem test_decode_string :
    decodeTableWord 32 0x53444f4c = some (.lods []) ∧
    decodeTableWord 32 0x534f5453 = some (.stos []) ∧
    decodeTableWord 32 0x53564f4d = some (.movs []) ∧
    decodeTableWord 32 0x53414353 = some (.scas []) ∧
    decodeTableWord 32 0x53504d43 = some (.cmps []) := by decide

/-- `INT 0x21`, `INT3`, `IRET`, `HLT`. -/
theorem test_decode_system :
    decodeTableWord 64 0x3132783020544e49 = some (.int [.imm 0x21]) ∧
    decodeTableWord 32 0x33544e49 = some (.int3 []) ∧
    decodeTableWord 32 0x54455249 = some (.iret []) ∧
    decodeTableWord 24 0x544c48 = some (.hlt []) := by decide

/-- `JMP t`, `JE t`, `JNE t`, `JG t`, `JGE t`, `JL t`, `JLE t`, `JS t`. -/
theorem test_decode_control_1 :
    decodeTableWord 40 0x7420504d4a = some (.jmp ["t".toList]) ∧
    decodeTableWord 32 0x7420454a = some (.je ["t".toList]) ∧
    decodeTableWord 40 0x7420454e4a = some (.jne ["t".toList]) ∧
    decodeTableWord 32 0x7420474a = some (.jg ["t".toList]) ∧
    decodeTableWord 40 0x742045474a = some (.jge ["t".toList]) ∧
    decodeTableWord 32 0x74204c4a = some (.jl ["t".toList]) ∧
    decodeTableWord 40 0x7420454c4a = some (.jle ["t".toList]) ∧
    decodeTableWord 32 0x7420534a = some (.js ["t".toList]) := by decide

/-- `JNS t`, `JA t`, `JAE t`, `JB t`, `JBE t`, `CALL t`, `RET`, `LOOP t`. -/
theorem test_decode_control_2 :
    decodeTableWord 40 0x7420534e4a = some (.jns ["t".toList]) ∧
    decodeTableWord 32 0x7420414a = some (.ja ["t".toList]) ∧
    decodeTableWord 40 0x742045414a = some (.jae ["t".toList]) ∧
    decodeTableWord 32 0x7420424a = some (.jb ["t".toList]) ∧
    decodeTableWord 40 0x742045424a = some (.jbe ["t".toList]) ∧
    decodeTableWord 48 0x74204c4c4143 = some (.call ["t".toList]) ∧
    decodeTableWord 24 0x544552 = some (.ret []) ∧
    decodeTableWord 48 0x7420504f4f4c = some (.loop ["t".toList]) := by decide

/-- `LOOPE t`, `LOOPNE t`, `LOOPZ t`, `LOOPNZ t`. -/
theorem test_decode_control_3 :
    decodeTableWord 56 0x742045504f4f4c = some (.loope ["t".toList]) ∧
    decodeTableWord 64 0x7420454e504f4f4c = some (.loopne ["t".toList]) ∧
    decodeTableWord 56 0x74205a504f4f4c = some (.loopz ["t".toList]) ∧
    decodeTableWord 64 0x74205a4e504f4f4c = some (.loopnz ["t".toList]) := by decide

-- ## One step, from the vectors of 95_test_vectors.md

/-- The registers after RESET with the configuration of the vectors. -/
def zero : Regs := Regs.reset 0x10000

/-- A state with given registers and flags. -/
def start (g : Regs) (f : Word) : State := { State.reset with regs := g, flags := f }

/-- A state in strict mode. -/
def strict (g : Regs) (f : Word) : State := { start g f with mode := .strict }

/-- The state of the control flow vectors: labels t and end, pc 4, 12 records. -/
def jumping (g : Regs) (f : Word) : State :=
  { start g f with
    pc := 4
    labels := [("t".toList, 9), ("end".toList, 12)]
    prog := List.replicate 12 ⟨1, "HLT".toList, [], "HLT".toList⟩ }

/-- Something of the state that an instruction completes in. -/
def after {α : Type} (i : Instr) (s : State) (see : State → α) : Option α :=
  match exec i s with
  | .next t => if t.faulted then none else some (see t)
  | .fault _ => none
  | .refused _ => none

/-- The error that an instruction raises, with pc. -/
def errorOf (i : Instr) (s : State) : Option (Report × Nat) :=
  match exec i s with
  | .next t => if t.faulted then some (t.report, t.pc) else none
  | .fault _ => none
  | .refused _ => none

/-- The refusal that an instruction meets. -/
def refusalOf (i : Instr) (s : State) : Option Refusal :=
  match exec i s with
  | .next _ => none
  | .fault _ => none
  | .refused r => some r

/-- EAX and the flags. -/
def eaxF (t : State) : Word × Word := (t.regs.eax, t.flags)

/-- EAX, EDX and the flags. -/
def edxEaxF (t : State) : Word × Word × Word := (t.regs.eax, t.regs.edx, t.flags)

-- Memory and operands
/-- M1. -/
theorem test_mov_store : after (.mov [.mem (.reg .ebx), .reg32 .eax])
    (start { zero with eax := 0x11223344, ebx := 0x100 } 0) (fun t => t.bankA) =
    some [(0x100, 0x44), (0x101, 0x33), (0x102, 0x22), (0x103, 0x11)] := by decide
/-- M2, of the bytes that M1 leaves. -/
theorem test_mov_load : after (.mov [.reg32 .ecx, .mem (.abs 0x101)])
    { start zero 0 with bankA := [(0x100, 0x44), (0x101, 0x33), (0x102, 0x22), (0x103, 0x11)] }
    (fun t => t.regs.ecx) = some 0x00112233 := by decide
/-- M3, M4 and M5. -/
theorem test_out_of_range : after (.mov [.reg32 .eax, .mem (.abs 0x20000)]) (start zero 0) eaxF = some (0, 0) ∧
    errorOf (.mov [.mem (.abs 0x20000), .reg32 .eax]) (start zero 0) =
      some (.raised (.memoryOutOfRange 0x20000), 0) ∧
    refusalOf (.mov [.reg32 .eax, .mem (.abs 0xFFFE)]) (start zero 0) = some .mixedMmioAccess := by decide
/-- M10, M11 and M12, from their tokens. -/
theorem test_tokens : resolve "0x1G".toList = .malformed "0x1G".toList ∧
    resolve "0X10".toList = .unshown "0X10".toList ∧ resolve "[AL]".toList = .malformed "[AL]".toList := by decide
/-- M9 and M13, from their tokens. -/
theorem test_literals : resolve "-1".toList = .imm 0xFFFFFFFF ∧ resolve "0b101".toList = .imm 5 ∧
    resolve "0x100000001".toList = .imm 1 ∧ resolve " 7".toList = .imm 7 ∧ resolve "eax".toList = .reg32 .eax := by
  decide
/-- M14, the second record, and M15. -/
theorem test_mov_bytes : after (.mov [.reg8 .ah, .reg8 .al]) (start { zero with eax := 0x123456FF } 0) eaxF =
      some (0x1234FFFF, 0) ∧
    after (.mov [.reg32 .ebx, .reg8 .ah]) (start { zero with eax := 0x12345678 } 0) (fun t => t.regs.ebx) =
      some 0x56 := by decide
/-- M16, M17, M18 and M22. -/
theorem test_forms : refusalOf (.mov [.reg8 .al, .mem (.reg .ebx)]) (start zero 0) = some .byteFormNotShown ∧
    refusalOf (.mov [.imm 5, .reg32 .eax]) (start zero 0) = some .formNotAdmitted ∧
    after (.mov [.reg32 .eax]) (start zero 0) (fun t => t.pc) = some 1 ∧
    refusalOf (.add [.mem (.reg .ebx), .mem (.reg .ecx)]) (start zero 0) = some .formNotAdmitted := by decide
/-- M20 and M21. -/
theorem test_mov_mem_mem : after (.mov [.mem (.reg .ecx), .mem (.reg .ebx)])
      { start { zero with ebx := 0x100, ecx := 0x200 } 0 with bankA := [(0x100, 1), (0x101, 2)] }
      (fun t => t.bankA) = some [(0x100, 1), (0x101, 2), (0x200, 1), (0x201, 2)] ∧
    errorOf (.mov [.mem (.reg .ecx), .mem (.reg .ebx)]) (strict zero 0) = some (.raised .modePolicyError, 0) := by
  decide

-- Devices
/-- V1 and V2. -/
theorem test_lcd : after (.mov [.mem (.abs 0x10005), .reg32 .eax]) (start { zero with eax := 0x1FF } 0)
      (fun t => t.pixels) = some [(5, 0xFF)] ∧
    after (.mov [.reg32 .eax, .mem (.abs 0x10005)]) { start zero 0 with pixels := [(5, 0xFF)] } eaxF =
      some (0, 0) := by decide
/-- V3, V4 and V5. -/
theorem test_keyboard :
    after (.mov [.reg32 .eax, .mem (.abs 0x10100)]) { start zero 0 with kq := [(0x41, true), (0x42, false)] } eaxF =
      some (1, 0) ∧
    after (.mov [.reg32 .eax, .mem (.abs 0x10101)]) { start zero 0 with kq := [(0x41, true), (0x42, false)] }
      (fun t => (t.regs.eax, t.kq, t.lastCode, t.lastState)) = some (0x41, [(0x42, false)], 0x41, 1) ∧
    after (.mov [.reg32 .eax, .mem (.abs 0x10102)]) { start zero 0 with lastState := 1 } eaxF = some (1, 0) := by
  decide
/-- V6 and V9. -/
theorem test_keycode : after (.mov [.reg32 .eax, .mem (.abs 0x10101)]) (start zero 0)
      (fun t => (t.kq, t.lastCode, t.lastState)) = some ([], 0, 0) ∧
    after (.add [.reg32 .eax, .mem (.abs 0x10101)])
      { start { zero with eax := 1 } 0 with kq := [(7, true)] } (fun t => (t.regs.eax, t.kq)) = some (8, []) := by
  decide
/-- V10. -/
theorem test_cmov_mmio : refusalOf (.cmove [.reg32 .eax, .mem (.abs 0x10101)])
    { start zero 0 with kq := [(7, true)] } = some .formNotAdmitted := by decide

-- Data movement
/-- D1, and the other fifteen with a condition that holds (40_flag_module.md R112). -/
theorem test_cmov_moves :
    let g := { zero with eax := 1, ebx := 2 }
    after (.cmove [.reg32 .eax, .reg32 .ebx]) (start g 0x040) eaxF = some (2, 0x040) ∧
    after (.cmovz [.reg32 .eax, .reg32 .ebx]) (start g 0x040) eaxF = some (2, 0x040) ∧
    after (.cmovo [.reg32 .eax, .reg32 .ebx]) (start g 0x800) eaxF = some (2, 0x800) ∧
    after (.cmovno [.reg32 .eax, .reg32 .ebx]) (start g 0x0C1) eaxF = some (2, 0x0C1) ∧
    after (.cmovb [.reg32 .eax, .reg32 .ebx]) (start g 0x001) eaxF = some (2, 0x001) ∧
    after (.cmovae [.reg32 .eax, .reg32 .ebx]) (start g 0x8C0) eaxF = some (2, 0x8C0) ∧
    after (.cmovne [.reg32 .eax, .reg32 .ebx]) (start g 0x881) eaxF = some (2, 0x881) ∧
    after (.cmovnz [.reg32 .eax, .reg32 .ebx]) (start g 0x881) eaxF = some (2, 0x881) := by decide
/-- D3, and the rest of the conditions. -/
theorem test_cmov_orders :
    let g := { zero with eax := 1, ebx := 9 }
    after (.cmovbe [.reg32 .eax, .reg32 .ebx]) (start g 0x801) eaxF = some (9, 0x801) ∧
    after (.cmova [.reg32 .eax, .reg32 .ebx]) (start g 0x801) eaxF = some (1, 0x801) ∧
    after (.cmovl [.reg32 .eax, .reg32 .ebx]) (start g 0x801) eaxF = some (9, 0x801) ∧
    after (.cmovg [.reg32 .eax, .reg32 .ebx]) (start g 0x801) eaxF = some (1, 0x801) ∧
    after (.cmovge [.reg32 .eax, .reg32 .ebx]) (start g 0x880) eaxF = some (9, 0x880) ∧
    after (.cmovle [.reg32 .eax, .reg32 .ebx]) (start g 0x040) eaxF = some (9, 0x040) ∧
    after (.cmovs [.reg32 .eax, .reg32 .ebx]) (start g 0x080) eaxF = some (9, 0x080) ∧
    after (.cmovns [.reg32 .eax, .reg32 .ebx]) (start g 0x080) eaxF = some (1, 0x080) := by decide
/-- D2, D4 and D5, and R81, R85 and R86 with a destination that is no register. -/
theorem test_cmov_stays : after (.cmove [.reg32 .eax, .mem (.abs 0x20000)]) (start { zero with eax := 1 } 0) eaxF =
      some (1, 0) ∧
    after (.cmove [.mem (.reg .ebx), .reg32 .eax]) (start zero 0x040) (fun t => (t.pc, t.bankA)) = some (1, []) ∧
    refusalOf (.cmove [.reg8 .al, .reg8 .bl]) (start zero 0x040) = some .byteFormNotShown ∧
    refusalOf (.cmove [.mem (.reg .ebx), .reg8 .al]) (start zero 0x040) = some .byteFormNotShown ∧
    refusalOf (.cmove [.imm 1, .reg8 .al]) (start zero 0) = some .byteFormNotShown ∧
    refusalOf (.cmove [.mem (.reg .ebx), .mem (.reg .ecx)]) (start zero 0) = some .formNotAdmitted ∧
    refusalOf (.cmove [.mem (.reg .ebx), .imm 1]) (start zero 0x040) = some .formNotAdmitted ∧
    refusalOf (.cmove [.imm 1, .mem (.abs 0x10101)]) (start zero 0x040) = some .formNotAdmitted ∧
    after (.cmove [.imm 1, .mem (.abs 0x100)]) (start zero 0x040) (fun t => t.pc) = some 1 := by decide
/-- D6 and D10. -/
theorem test_push : after (.push [.reg32 .esp]) (start zero 0) (fun t => (t.regs.esp, t.bankA)) =
      some (0xFFFC, [(0xFFFE, 1)]) ∧
    after (.push [.imm 0x1234]) (start zero 0) (fun t => (t.regs.esp, t.bankA)) =
      some (0xFFFC, [(0xFFFC, 0x34), (0xFFFD, 0x12)]) := by decide
/-- D9. -/
theorem test_push_fault : errorOf (.push [.reg32 .eax]) (start { zero with esp := 0 } 0) =
    some (.raised (.memoryOutOfRange 0xFFFFFFFC), 0) := by decide
/-- D7 and D8. -/
theorem test_pop : after (.pop [.reg32 .esp])
      { start { zero with esp := 0xFFFC } 0 with
        bankA := [(0xFFFC, 0x78), (0xFFFD, 0x56), (0xFFFE, 0x34), (0xFFFF, 0x12)] } (fun t => t.regs.esp) =
      some 0x12345678 ∧
    after (.pop [.reg32 .eax]) (start { zero with esp := 0x20000 } 0) (fun t => (t.regs.eax, t.regs.esp)) =
      some (0, 0x20004) := by decide
/-- D11 and D12. -/
theorem test_lahf : after (.lahf []) (start zero 0x0C1) eaxF = some (0xC300, 0x0C1) ∧
    after (.lahf []) (start zero 0x800) eaxF = some (0x200, 0x800) := by decide
/-- D13 and D14. -/
theorem test_sahf : after (.sahf []) (start { zero with eax := 0xFF00 } 0x800) eaxF = some (0xFF00, 0x8C1) ∧
    after (.sahf []) (start { zero with eax := 0x200 } 0x0C1) eaxF = some (0x200, 0) := by decide
/-- D15 and D16. -/
theorem test_bswap : after (.bswap [.reg32 .eax]) (start { zero with eax := 0x12345678 } 0) eaxF =
      some (0x78563412, 0) ∧
    refusalOf (.bswap [.reg8 .al]) (start zero 0) = some .byteFormNotShown ∧
    refusalOf (.bswap [.mem (.reg .ebx)]) (start zero 0) = some .formNotAdmitted := by decide

-- Arithmetic
/-- EAX and EBX. -/
def pair (a b : Word) : Regs := { zero with eax := a, ebx := b }
/-- A2, A3 and A5. -/
theorem test_add : after (.add [.reg32 .eax, .reg32 .ebx]) (start (pair 0xFFFFFFFF 1) 0) eaxF = some (0, 0x041) ∧
    after (.add [.reg32 .eax, .reg32 .ebx]) (start (pair 0x7FFFFFFF 1) 0) eaxF = some (0x80000000, 0x880) ∧
    after (.add [.reg32 .eax, .reg32 .ebx]) (start zero 0x801) eaxF = some (0, 0x040) := by decide
/-- A26, the destination as its own source. -/
theorem test_add_same : after (.add [.reg32 .eax, .reg32 .eax]) (start (pair 0x80000000 0) 0) eaxF =
    some (0, 0x841) := by decide
/-- A7, A8 and A9. -/
theorem test_sub : after (.sub [.reg32 .eax, .reg32 .ebx]) (start (pair 0 1) 0) eaxF = some (0xFFFFFFFF, 0x081) ∧
    after (.sub [.reg32 .eax, .reg32 .ebx]) (start (pair 0x80000000 1) 0) eaxF = some (0x7FFFFFFF, 0x800) ∧
    after (.sub [.reg32 .eax, .reg32 .ebx]) (start (pair 0x7FFFFFFF 0xFFFFFFFF) 0) eaxF =
      some (0x80000000, 0x881) := by decide
/-- A11. -/
theorem test_cmp : after (.cmp [.reg32 .eax, .reg32 .ebx]) (start (pair 5 7) 0) eaxF = some (5, 0x081) := by decide
/-- A12 and A13. -/
theorem test_inc : after (.inc [.reg32 .eax]) (start (pair 0xFFFFFFFF 0) 0x001) eaxF = some (0, 0x041) ∧
    after (.inc [.reg32 .eax]) (start (pair 0x7FFFFFFF 0) 0) eaxF = some (0x80000000, 0x880) := by decide
/-- A16 and A17. -/
theorem test_dec : after (.dec [.reg32 .eax]) (start (pair 0x80000000 0) 0x001) eaxF = some (0x7FFFFFFF, 0x801) ∧
    after (.dec [.reg32 .eax]) (start zero 0) eaxF = some (0xFFFFFFFF, 0x080) := by decide
/-- A18, A19 and A20. -/
theorem test_neg : after (.neg [.reg32 .eax]) (start zero 0) eaxF = some (0, 0x040) ∧
    after (.neg [.reg32 .eax]) (start (pair 5 0) 0) eaxF = some (0xFFFFFFFB, 0x081) ∧
    after (.neg [.reg32 .eax]) (start (pair 0x80000000 0) 0) eaxF = some (0x80000000, 0x881) := by decide
/-- A22, A23, A24 and A25. -/
theorem test_xadd : after (.xadd [.reg32 .eax, .reg32 .ebx]) (start (pair 1 2) 0)
      (fun t => (t.regs.eax, t.regs.ebx, t.flags)) = some (3, 1, 0) ∧
    after (.xadd [.reg32 .eax, .reg32 .eax]) (start (pair 0x80000000 0) 0) eaxF = some (0, 0x841) ∧
    after (.xadd [.mem (.reg .ebx), .reg32 .eax]) (start (pair 7 0x100) 0x801) eaxF = some (7, 0x801) ∧
    refusalOf (.xadd [.reg32 .eax, .mem (.reg .ebx)]) (start zero 0) = some .formNotAdmitted := by decide
/-- The bytes of B1, B2 and B5, and of B4, B6, B7 and B8. -/
theorem test_bytes : after (.sub [.reg8 .al, .reg8 .bl]) (start (pair 0x12345610 0x20) 0) (fun t => t.regs.eax) =
      some 0x123456F0 ∧
    after (.dec [.reg8 .al]) (start (pair 1 0) 0x001) (fun t => t.regs.eax) = some 0 ∧
    after (.inc [.reg8 .ah]) (start (pair 0xFF00 0) 0) (fun t => t.regs.eax) = some 0 ∧
    after (.add [.reg8 .al, .imm 1]) (start (pair 0xFF 0) 0) (fun t => t.regs.eax) = some 0 ∧
    after (.neg [.reg8 .al]) (start (pair 5 0) 0) (fun t => t.regs.eax) = some 0xFB ∧
    refusalOf (.add [.reg8 .al, .imm 256]) (start zero 0) = some .byteFormNotShown ∧
    refusalOf (.add [.reg8 .al, .reg32 .ebx]) (start zero 0) = some .byteFormNotShown := by decide
/-- The flags of B1, B2, B5, B6 and B3 that are no draws, whatever the draws are. -/
theorem test_byte_flags : ∀ c z n o : Bool,
    let sub := flagsByte .sub 0 0x10 0x20 0xF0 c z n o
    let dec := flagsByte .dec 0x001 1 1 0 c z n o
    let neg := flagsByte .neg 0 5 0 0xFB c z n o
    let and := flagsByte .logic 0x801 0xF0 0x0F 0 c z n o
    cf sub = true ∧ zf sub = false ∧ cf dec = true ∧ zf dec = true ∧
    cf (flagsByte .inc 0x001 0xFF 1 0 c z n o) = true ∧ cf neg = true ∧ zf neg = false ∧
    cf and = false ∧ zf and = true ∧ of and = false := by decide

-- Logical and bit scan
/-- L1, and the byte of B3. -/
theorem test_and : after (.and [.reg32 .eax, .reg32 .ebx]) (start (pair 0xF0F0F0F0 0x0FF00FF0) 0x801) eaxF =
      some (0x00F000F0, 0) ∧
    after (.and [.reg8 .al, .imm 0x0F]) (start (pair 0xF0 0) 0x801) (fun t => t.regs.eax) = some 0 := by decide
/-- L2. -/
theorem test_or : after (.or [.reg32 .eax, .reg32 .ebx]) (start (pair 0x80000000 1) 0x801) eaxF =
    some (0x80000001, 0x080) := by decide
/-- L3. -/
theorem test_xor : after (.xor [.reg32 .eax, .reg32 .eax]) (start (pair 0xFFFFFFFF 0) 0x801) eaxF =
    some (0, 0x040) := by decide
/-- L4 and L5. -/
theorem test_test : after (.test [.reg32 .eax, .imm 0x80]) (start (pair 0x80 0) 0x801) eaxF = some (0x80, 0) ∧
    after (.test [.reg32 .eax, .imm 1]) (start (pair 6 0) 0x801) eaxF = some (6, 0x040) := by decide
/-- L6, L8 and L10. -/
theorem test_bsf : after (.bsf [.reg32 .eax, .reg32 .ebx]) (start (pair 0x55 0x18) 0x801) eaxF = some (3, 0x801) ∧
    after (.bsf [.reg32 .eax, .reg32 .ebx]) (start (pair 0x55 0) 0x801) eaxF = some (0x55, 0x841) ∧
    after (.bsf [.reg32 .eax, .reg32 .ebx]) (start (pair 0x55 0x80000000) 0x801) eaxF = some (31, 0x801) := by decide
/-- L7 and L9. -/
theorem test_bsr : after (.bsr [.reg32 .eax, .reg32 .ebx]) (start (pair 0x55 0x18) 0x801) eaxF = some (4, 0x801) ∧
    after (.bsr [.reg32 .eax, .reg32 .ebx]) (start (pair 0x55 0x80000000) 0x801) eaxF = some (31, 0x801) := by decide

-- Shift and rotate
/-- H1, H2 and H7. -/
theorem test_shl : after (.shl [.reg32 .eax, .imm 1]) (start (pair 0x80000001 0) 0) eaxF = some (2, 0x801) ∧
    after (.shl [.reg32 .eax, .imm 31]) (start (pair 1 0) 0) eaxF = some (0x80000000, 0x080) ∧
    after (.shl [.reg32 .eax, .reg8 .cl]) (start { zero with eax := 3, ecx := 0x102 } 0) eaxF = some (0xC, 0) := by
  decide
/-- H3 under both settings, H5, H30 and H31. -/
theorem test_shl_counts : after (.shl [.reg32 .eax, .imm 33]) (start (pair 1 0) 0) eaxF = some (2, 0x801) ∧
    after (.shl [.reg32 .eax, .imm 33])
      { start (pair 1 0) 0 with cfg := { Config.initial with shlCfRawCount := false } } eaxF = some (2, 0) ∧
    after (.shl [.reg32 .eax, .imm 32]) (start (pair 0xFFFFFFFF 0) 0x841) eaxF = some (0xFFFFFFFF, 0x841) ∧
    refusalOf (.shl [.mem (.abs 0x10000), .imm 0]) (start zero 0) = some .zeroCountMmio ∧
    refusalOf (.shl [.reg32 .eax]) (start zero 0) = some .formNotAdmitted := by decide
/-- H8, H9 and H10. -/
theorem test_shr : after (.shr [.reg32 .eax, .imm 1]) (start (pair 0x80000001 0) 0) eaxF = some (0x40000000, 0x801) ∧
    after (.shr [.reg32 .eax, .imm 4]) (start (pair 0xF8 0) 0) eaxF = some (0xF, 0x001) ∧
    after (.shr [.reg32 .eax, .imm 31]) (start (pair 0x80000000 0) 0) eaxF = some (1, 0) := by decide
/-- H12, H13 and H14. -/
theorem test_sar : after (.sar [.reg32 .eax, .imm 4]) (start (pair 0x80000000 0) 0) eaxF = some (0xF8000000, 0x080) ∧
    after (.sar [.reg32 .eax, .imm 5]) (start (pair 0xFFFFFFFF 0) 0) eaxF = some (0xFFFFFFFF, 0x081) ∧
    after (.sar [.reg32 .eax, .imm 1]) (start (pair 0x7FFFFFFF 0) 0) eaxF = some (0x3FFFFFFF, 0x001) := by decide
/-- H16, H17 and H19. -/
theorem test_rol : after (.rol [.reg32 .eax, .imm 1]) (start (pair 0x80000000 0) 0) eaxF = some (1, 0x801) ∧
    after (.rol [.reg32 .eax, .imm 4]) (start (pair 0x12345678 0) 0) eaxF = some (0x23456781, 0x001) ∧
    after (.rol [.reg32 .eax, .imm 1]) (strict (pair 0x80000000 0) 0x0C0) eaxF = some (1, 0x8C1) := by decide
/-- H20, H21 and H22. -/
theorem test_ror : after (.ror [.reg32 .eax, .imm 1]) (start (pair 1 0) 0) eaxF = some (0x80000000, 0x881) ∧
    after (.ror [.reg32 .eax, .imm 1]) (strict (pair 1 0) 0) eaxF = some (0x80000000, 0x801) ∧
    after (.ror [.reg32 .eax, .imm 8]) (start (pair 0x12345678 0) 0) eaxF = some (0x78123456, 0) := by decide
/-- H23, H24 and H25. -/
theorem test_rcl : after (.rcl [.reg32 .eax, .imm 1]) (start (pair 0x80000000 0) 0x001) eaxF = some (1, 0x801) ∧
    after (.rcl [.reg32 .eax, .imm 1]) (start (pair 0x80000000 0) 0) eaxF = some (0, 0x841) ∧
    after (.rcl [.reg32 .eax, .imm 2]) (start (pair 0x40000000 0) 0) eaxF = some (0, 0x041) := by decide
/-- H26, H28 and H29. -/
theorem test_rcr : after (.rcr [.reg32 .eax, .imm 1]) (start (pair 1 0) 0) eaxF = some (0, 0x041) ∧
    after (.rcr [.reg32 .eax, .imm 1]) (start (pair 1 0) 0x001) eaxF = some (0x80000000, 0x881) ∧
    after (.rcr [.reg32 .eax, .imm 2]) (start (pair 4 0) 0) eaxF = some (1, 0) := by decide

-- Multiply and divide
/-- X1, X2 and X3. -/
theorem test_mul : after (.mul [.reg32 .ebx]) (start (pair 0x10000 0x10000) 0) edxEaxF = some (0, 1, 0x841) ∧
    after (.mul [.reg32 .ebx]) (strict (pair 0x10000 0x10000) 0) edxEaxF = some (0, 1, 0x801) ∧
    after (.mul [.reg32 .ebx]) (start (pair 0xFFFFFFFF 0xFFFFFFFF) 0) edxEaxF = some (1, 0xFFFFFFFE, 0x801) := by
  decide
/-- X6, X7 and X8; X10. -/
theorem test_imul : after (.imul [.reg32 .ebx]) (start (pair 0xFFFFFFFE 3) 0) edxEaxF =
      some (0xFFFFFFFA, 0xFFFFFFFF, 0x881) ∧
    after (.imul [.reg32 .ebx]) (start (pair 0xFFFFFFFF 1) 0) edxEaxF = some (0xFFFFFFFF, 0xFFFFFFFF, 0x881) ∧
    after (.imul [.reg32 .ebx]) (start (pair 0x80000000 0x80000000) 0) edxEaxF = some (0, 0x40000000, 0x841) ∧
    refusalOf (.imul [.reg32 .eax, .reg32 .ebx]) (start zero 0) = some .formNotAdmitted := by decide
/-- X11, X12 and X16. -/
theorem test_div : after (.div [.reg32 .ebx]) (start (pair 100 7) 0) edxEaxF = some (14, 2, 0) ∧
    after (.div [.reg32 .ebx]) (start (pair 100 0) 0x801) edxEaxF = some (0, 0, 0x841) ∧
    after (.div [.reg32 .ebx]) (strict (pair 0xFFFFFFFF 2) 0x881) edxEaxF = some (0x7FFFFFFF, 1, 0x080) := by decide
/-- X13 and X15. -/
theorem test_div_corners : after (.div [.reg32 .ebx]) (strict (pair 100 0) 0x8C1) edxEaxF = some (0, 0, 0x0C0) ∧
    refusalOf (.div [.reg32 .ebx]) (start { pair 100 7 with edx := 1 } 0) = some .divideDividendUnknown := by decide
/-- X17, X18 and X19. -/
theorem test_idiv : after (.idiv [.reg32 .ebx]) (start { pair 0xFFFFFFF9 2 with edx := 0xFFFFFFFF } 0) edxEaxF =
      some (0xFFFFFFFD, 0xFFFFFFFF, 0x080) ∧
    after (.idiv [.reg32 .ebx]) (start (pair 7 0xFFFFFFFE) 0) edxEaxF = some (0xFFFFFFFD, 1, 0x080) ∧
    after (.idiv [.reg32 .ebx]) (start { pair 0x80000000 1 with edx := 0xFFFFFFFF } 0) edxEaxF =
      some (0x80000000, 0, 0x080) := by decide
/-- X20, X21 and X23. -/
theorem test_idiv_corners :
    refusalOf (.idiv [.reg32 .ebx]) (start { pair 0x80000000 0xFFFFFFFF with edx := 0xFFFFFFFF } 0) =
      some .divideOverflow ∧
    refusalOf (.idiv [.reg32 .ebx]) (start (pair 0xFFFFFFF9 2) 0) = some .divideDividendUnknown ∧
    after (.idiv [.reg32 .ebx]) (start { pair 6 0 with edx := 9 } 0) edxEaxF = some (0, 0, 0x040) := by decide

-- String
/-- T1 and T6. -/
theorem test_lods : after (.lods []) { start { zero with esi := 0x100, eax := 0x12345678 } 0 with
      bankA := [(0x100, 0x41)] } (fun t => (t.regs.eax, t.regs.esi)) = some (0x12345641, 0x101) ∧
    after (.lods []) (start { zero with esi := 0xFFFFFFFF, eax := 0x55 } 0) (fun t => (t.regs.eax, t.regs.esi)) =
      some (0, 0) := by decide
/-- T9. -/
theorem test_lods_keycode : after (.lods []) { start { zero with esi := 0x10101 } 0 with kq := [(9, true)] }
    (fun t => (t.regs.eax, t.regs.esi, t.kq)) = some (9, 0x10102, []) := by decide
/-- T2 and T7. -/
theorem test_stos : after (.stos []) (start { zero with eax := 0xFF, edi := 0x10000 } 0)
      (fun t => (t.pixels, t.regs.edi)) = some ([(0, 0xFF)], 0x10001) ∧
    errorOf (.stos []) (start { zero with edi := 0x20000 } 0) = some (.raised (.memoryOutOfRange 0x20000), 0) := by
  decide
/-- T3. -/
theorem test_movs : after (.movs []) { start { zero with esi := 0x100, edi := 0x200 } 0 with bankA := [(0x100, 0x7A)] }
    (fun t => (t.bankA, t.regs.esi, t.regs.edi)) = some ([(0x100, 0x7A), (0x200, 0x7A)], 0x101, 0x201) := by decide
/-- T4 and T5, the pointers; their flags come from the row of SUB. -/
theorem test_scas_cmps :
    after (.scas []) { start { zero with eax := 0x41, edi := 0x200 } 0 with bankA := [(0x200, 0x41)] }
      (fun t => t.regs.edi) = some 0x201 ∧
    after (.cmps []) { start { zero with esi := 0x100, edi := 0x200 } 0 with bankA := [(0x100, 0x10), (0x200, 0x20)] }
      (fun t => (t.regs.esi, t.regs.edi)) = some (0x101, 0x201) := by decide
/-- T4 and T5, the flags that are no draws. -/
theorem test_string_flags : ∀ c z n o : Bool,
    zf (flagsByte .sub 0 0x41 0x41 0 c z n o) = true ∧ cf (flagsByte .sub 0 0x41 0x41 0 c z n o) = false ∧
    zf (flagsByte .sub 0 0x10 0x20 0xF0 c z n o) = false ∧ cf (flagsByte .sub 0 0x10 0x20 0xF0 c z n o) = true := by
  decide

-- Interrupt and system
/-- I1, I2 and I3. -/
theorem test_int_console : after (.int [.imm 0x10]) (start { zero with eax := 0xE41 } 0) (fun t => t.console) =
      some ['A'] ∧
    after (.int [.imm 0x10]) (start { zero with eax := 0xF41 } 0) (fun t => (t.console, t.halted)) =
      some ([], false) ∧
    after (.int [.imm 0x21]) (start { zero with eax := 0x200, edx := 0x0A } 0) (fun t => t.console) = some ['\n'] := by
  decide
/-- I4, I5 and I9, and the 8-bit register of R170. -/
theorem test_int : after (.int [.imm 0x20]) (start zero 0) (fun t => (t.halted, t.pc)) = some (true, 1) ∧
    after (.int [.imm 3]) (start zero 0) (fun t => (t.halted, t.pc)) = some (false, 1) ∧
    refusalOf (.int [.reg32 .eax]) (start zero 0) = some .formNotAdmitted ∧
    refusalOf (.int [.reg8 .al]) (start zero 0) = some .formNotAdmitted := by decide
/-- I6, I7 and I8. -/
theorem test_system : after (.int3 []) (start zero 0) (fun t => (t.halted, t.pc)) = some (true, 1) ∧
    after (.iret []) (start zero 0) (fun t => (t.halted, t.pc)) = some (false, 1) ∧
    after (.hlt []) (start zero 0) (fun t => (t.halted, t.pc)) = some (true, 1) := by decide

-- Control flow
/-- pc. -/
def pcOf (t : State) : Nat := t.pc
/-- C1, C2 and C18. -/
theorem test_jmp : after (.jmp ["t".toList]) (jumping zero 0) pcOf = some 9 ∧
    errorOf (.jmp ["nowhere".toList]) (jumping zero 0) =
      some (.raised (.controlFlowFault .jmp "nowhere".toList), 4) ∧
    refusalOf (.jmp ["t".toList, "u".toList]) (jumping zero 0) = some .formNotAdmitted := by decide
/-- C3. -/
theorem test_je_missing : errorOf (.je ["nowhere".toList]) (jumping zero 0) =
    some (.raised (.controlFlowFault .je "nowhere".toList), 4) := by decide
/-- C4. -/
theorem test_jumps_less : after (.jl ["t".toList]) (jumping zero 0x081) pcOf = some 9 ∧
    after (.jb ["t".toList]) (jumping zero 0x081) pcOf = some 9 ∧
    after (.jg ["t".toList]) (jumping zero 0x081) pcOf = some 5 ∧
    after (.ja ["t".toList]) (jumping zero 0x081) pcOf = some 5 := by decide
/-- C5 and C7. -/
theorem test_jumps_signed : after (.jle ["t".toList]) (jumping zero 0x800) pcOf = some 9 ∧
    after (.jge ["t".toList]) (jumping zero 0x800) pcOf = some 5 ∧
    after (.js ["t".toList]) (jumping zero 0x080) pcOf = some 9 ∧
    after (.jns ["t".toList]) (jumping zero 0x080) pcOf = some 5 := by decide
/-- C6. -/
theorem test_jumps_zero : after (.je ["t".toList]) (jumping zero 0x040) pcOf = some 9 ∧
    after (.jne ["t".toList]) (jumping zero 0x040) pcOf = some 5 ∧
    after (.jbe ["t".toList]) (jumping zero 0x040) pcOf = some 9 ∧
    after (.jae ["t".toList]) (jumping zero 0x040) pcOf = some 9 := by decide
/-- C8, C9 and C10. -/
theorem test_call_ret : after (.call ["t".toList]) (jumping zero 0) (fun t => (t.cs, t.pc)) = some ([5], 9) ∧
    after (.ret []) { jumping zero 0 with cs := [2] } (fun t => (t.cs, t.pc)) = some ([], 2) ∧
    after (.ret []) (jumping zero 0) (fun t => (t.cs, t.pc)) = some ([], 5) := by decide
/-- C11, C12 and C13. -/
theorem test_loop :
    after (.loop ["t".toList]) (jumping { zero with ecx := 2 } 0) (fun t => (t.regs.ecx, t.pc)) = some (1, 9) ∧
    after (.loop ["t".toList]) (jumping { zero with ecx := 1 } 0) (fun t => (t.regs.ecx, t.pc)) = some (0, 5) ∧
    after (.loop ["t".toList]) (jumping zero 0) (fun t => (t.regs.ecx, t.pc)) = some (0xFFFFFFFF, 9) := by decide
/-- C14 and C15. -/
theorem test_loops :
    after (.loope ["t".toList]) (jumping { zero with ecx := 3 } 0x040) (fun t => (t.regs.ecx, t.pc)) = some (2, 9) ∧
    after (.loopz ["t".toList]) (jumping { zero with ecx := 3 } 0x040) (fun t => (t.regs.ecx, t.pc)) = some (2, 9) ∧
    after (.loopne ["t".toList]) (jumping { zero with ecx := 3 } 0x040) (fun t => (t.regs.ecx, t.pc)) = some (2, 5) ∧
    after (.loopnz ["t".toList]) (jumping { zero with ecx := 3 } 0x040) (fun t => (t.regs.ecx, t.pc)) =
      some (2, 5) := by decide
/-- C20. -/
theorem test_exec_loop : (match hostExec (jumping { zero with ecx := 3 } 0)
      ⟨1, "LOOP".toList, ["nowhere".toList], []⟩ with
    | .next t => some (t.regs.ecx, t.pc, t.faulted)
    | .fault _ => none
    | .refused _ => none) = some (2, 4, false) := by decide

-- The step
/-- What a step reports, with halted, pc and ECX. -/
def stepped (s : State) : Option (Report × Bool × Nat × Word) :=
  match step s with
  | .next t => some (t.report, t.halted, t.pc, t.regs.ecx)
  | .fault _ => none
  | .refused _ => none
/-- P1, its first step: the record `MOV ECX,3` as bits, fetched, decoded and run; R4, from an empty program. -/
theorem test_step : stepped (State.reset.withFetchWord 72 0x332c58434520564f4d) =
      some (.returned 1, true, 1, 3) ∧
    stepped State.reset = some (.returned (-1), true, 0, 0) := by decide
/-- M19, C17 and T8: records with a mnemonic outside the table. -/
theorem test_step_refuses : ∀ name ∈ ["NOP".toList, "JZ".toList, "LODSB".toList],
    (match step (loadRecord State.reset ⟨1, name, [], name⟩) with
    | .refused r => some r
    | .next _ => none
    | .fault _ => none) = some .mnemonicNotAdmitted := by decide
/-- R6 and R7. -/
theorem test_keyboard_host : keyStatus { State.reset with kq := [(1, true)] } = 1 ∧
    (hostKbdPop { State.reset with kq := [(1, true)] }).kq = [] ∧
    (hostKbdPop { State.reset with kq := [(1, true)] }).lastCode = 1 ∧
    (hostKbdPop { State.reset with kq := [(1, true)] }).lastState = 1 := by decide
/-- V8: the error goes to the host alone. -/
theorem test_read_io : (hostReadIo State.reset 0x100).1 = State.reset := by decide
/-- R61 with the mod of R11: −1 mod 256 and 0x141 mod 256 in the first pixel. -/
theorem test_write_io : (hostWriteIo State.reset 0x10000 (-1)).1.pixels.read 0 = 0xFF ∧
    (hostWriteIo State.reset 0x10000 0x141).1.pixels.read 0 = 0x41 := by decide

-- ## For each statement with hypotheses, states and operands that meet them

/-- A state that satisfies the invariant, with something in every memory, at the ends of their ranges. -/
def sample : State :=
  { jumping { zero with eax := 0x11223344, ebx := 0x100, ecx := 3, esi := 0x100, edi := 0xFFFF } 0x8C1 with
    bankA := [(0x100, 0x44), (0xFFFF, 1)]
    pixels := [(0, 7), (255, 9)]
    kq := [(0x41, true)]
    cs := [2]
    bps := [-1, 4] }

/-- `sample` with no keyboard event. -/
def idle : State := { sample with kq := [] }

theorem witness_Invariant : Invariant sample ∧ Invariant idle := by decide
theorem witness_EncodeThenDecode :
    Instr.printable (.mov [.mem (.regMinus .ebp 0xFFFFFFFF), .imm 0x80000000]) = true ∧
    Instr.wf (.jmp ["t".toList]) = true ∧ Instr.wf (.mov [.reg8 .al, .imm 255]) = true := by decide
theorem witness_MnemonicSelectsInstruction :
    upper "cMovle".toList = Mnemonic.name .cmovle ∧
    (let s := loadRecord sample ⟨1, "NOP".toList, [], []⟩
     configOk s.cfg = true ∧ s.faulted = false ∧ s.halted = false ∧
       fetch s = some ⟨1, "NOP".toList, [], []⟩ ∧ mnemonicOf (upper "NOP".toList) = none) := by decide
theorem witness_TokensOfNamesAndCharacters :
    (∀ c ∈ [' ', '\t'], isSpace c = true) ∧ upper "eSp".toList = Reg32.name .esp ∧
    upper "bH".toList = Reg8.name .bh := ⟨List.all_eq_true.mp (by decide), by decide, by decide⟩
theorem witness_ImmediateTokens : ∀ c ∈ "1F".toList, isSpace c = false :=
  fun c hc => by
    rcases List.mem_cons.mp hc with rfl | hc
    · decide
    · rcases List.mem_cons.mp hc with rfl | hc
      · decide
      · cases hc
theorem witness_LittleEndianMemory : Invariant sample ∧
    isMmio sample.cfg (0xFFFC : Word).toNat = false ∧
    memWriteOk sample 0xFFFC 4 = true ∧ memWriteOk sample 0 4 = true := by decide
theorem witness_OutOfRangeAccesses : sample.cfg.memSize ≤ 0x10000 ∧
    isMmio sample.cfg (0x10103 : Word).toNat = false ∧
    (∃ v t, memRead sample 0x10103 4 = .done v t) ∧
    (∀ i < 4, isMmio sample.cfg ((0x10103 : Word).toNat + i) = false) ∧
    sample.cfg.memSize < (0x10103 : Word).toNat + 4 ∧
    isMmio sample.cfg (0xFFFD : Word).toNat = false ∧ isMmio sample.cfg ((0xFFFD : Word).toNat + 3) = true :=
  ⟨by decide, by decide, ⟨_, _, rfl⟩, by decide, by decide, by decide, by decide⟩
theorem witness_LcdRegisters : Invariant sample ∧
    classify sample.cfg 0x10000 = .lcd ∧ classify sample.cfg 0x100FF = .lcd := by decide
theorem witness_KeyboardRegisters : Invariant sample ∧
    classify sample.cfg 0x10100 = .kbd ∧ classify sample.cfg 0x10101 = .kbd ∧
    classify sample.cfg 0x10102 = .kbd ∧ sample.cfg.kbdBase = 0x10100 ∧ sample.kq = [(0x41, true)] ∧ idle.kq = [] := by
  decide
/-- A completed instruction, a fault and a refusal. -/
theorem witness_StepRunsDecoded :
    let s := fun (tokens : List Text) => loadRecord sample ⟨1, "MOV".toList, tokens, []⟩
    configOk sample.cfg = true ∧ sample.faulted = false ∧ sample.halted = false ∧
    (∀ tokens, fetch (s tokens) = some ⟨1, "MOV".toList, tokens, []⟩) ∧
    decode ⟨1, "MOV".toList, ["EAX".toList, "EBX".toList], []⟩ = .ok (.mov [.reg32 .eax, .reg32 .ebx]) ∧
    (∃ t, exec (.mov [.reg32 .eax, .reg32 .ebx]) (s ["EAX".toList, "EBX".toList]) = .next t ∧ t.faulted = false) ∧
    (∃ t, exec (.mov [.reg32 .eax, .malformed ['x']]) (s ["EAX".toList, ['x']]) = .next t ∧ t.faulted = true) ∧
    ∃ r, exec (.mov [.imm 5, .reg32 .eax]) (s [['5'], "EAX".toList]) = .refused r :=
  ⟨by decide, rfl, rfl, fun _ => rfl, by rfl, ⟨_, rfl, rfl⟩, ⟨_, rfl, rfl⟩, ⟨_, rfl⟩⟩
theorem witness_StepAtRest : configOk sample.cfg = true ∧ { sample with faulted := true }.faulted = true ∧
    ({ sample with halted := true }.faulted = false ∧ { sample with halted := true }.halted = true) ∧
    ({ sample with pc := 12 }.halted = false ∧ sample.prog.length ≤ 12) := by decide
theorem witness_RunnableInProgram :
    ∃ t, step { sample with prog := List.replicate 12 ⟨1, "INT".toList, ["3".toList], []⟩ } = .next t ∧
      t.faulted = false ∧ t.halted = false := ⟨_, rfl, rfl, rfl⟩
theorem witness_InvariantKept : Invariant sample ∧ ∃ t, step sample = .next t := ⟨by decide, _, rfl⟩
theorem witness_VerdictOfEveryInstruction :
    verdict (.stos []) sample = .completes ∧
    verdict (.stos []) { sample with regs := { zero with edi := 0x20000 } } = .raises (.memoryOutOfRange 0x20000) ∧
    verdict (.mov [.reg32 .eax, .mem (.abs 0xFFFE)]) sample = .refuses .mixedMmioAccess := by decide
theorem witness_RegisterFrame :
    ∃ t, exec (.add [.reg32 .eax, .reg32 .ebx]) sample = .next t ∧ t.faulted = false := ⟨_, rfl, rfl⟩
theorem witness_FlagFrame : Instr.wf (.rol [.reg32 .eax, .imm 1]) = true ∧
    ∃ t, exec (.rol [.reg32 .eax, .imm 1]) sample = .next t ∧ t.faulted = false := ⟨rfl, _, rfl, rfl⟩
/-- A form that stores nothing, one that stores the last byte of memory, and one that stores a pixel. -/
theorem witness_MemoryFrame :
    (stores (.cmp [.mem (.reg .ebx), .reg32 .eax]) sample = none ∧
      ∃ t, exec (.cmp [.mem (.reg .ebx), .reg32 .eax]) sample = .next t ∧ t.faulted = false) ∧
    (stores (.stos []) sample = some (0xFFFF, 1) ∧
      ∃ t, exec (.stos []) sample = .next t ∧ t.faulted = false) ∧
    (stores (.mov [.mem (.abs 0x100FF), .reg32 .eax]) sample = some (0x100FF, 4) ∧
      isMmio sample.cfg (0x100FF : Word).toNat = true ∧
      ∃ t, exec (.mov [.mem (.abs 0x100FF), .reg32 .eax]) sample = .next t ∧ t.faulted = false) :=
  ⟨⟨rfl, _, rfl, rfl⟩, ⟨rfl, _, rfl, rfl⟩, ⟨rfl, by decide, _, rfl, rfl⟩⟩
theorem witness_KeyboardFrame : (∀ p ∈ loads (.lods []) sample, p.1.toNat ≠ sample.cfg.kbdBase + 1) ∧
    ∃ t, exec (.lods []) sample = .next t ∧ t.faulted = false := ⟨by decide, _, rfl, rfl⟩
theorem witness_ControlFrame : Mnemonic.inc ∉ controlMnemonics ∧
    (∃ t, exec (.inc [.reg32 .eax]) sample = .next t ∧ t.faulted = false) ∧
    ∃ t, hostExec sample ⟨1, "CALL".toList, [['u']], []⟩ = .next t := ⟨by decide, ⟨_, rfl, rfl⟩, ⟨_, rfl⟩⟩
theorem witness_WhatHalts : sample.halted = false ∧
    ∃ t, exec (.int [.imm 0x20]) sample = .next t ∧ t.faulted = false ∧ t.halted = true := ⟨rfl, _, rfl, rfl, rfl⟩
/-- A fault of STEP, a fault of EXEC, an operation that leaves the Faulted state, and an address of no device. -/
theorem witness_FaultFrame : sample.faulted = false ∧
    (∃ t, step (loadRecord sample ⟨1, "JMP".toList, [['u']], []⟩) = .next t ∧ t.faulted = true) ∧
    (∃ t, hostExec sample ⟨1, "PUSH".toList, [['x']], []⟩ = .next t ∧ t.faulted = true) ∧
    (∃ t r, hostStep .reset { sample with faulted := true } = .next (t, r) ∧ t.faulted = false) ∧
    isMmio sample.cfg 0x10103 = false := ⟨rfl, ⟨_, rfl, rfl⟩, ⟨_, rfl, rfl⟩, ⟨_, _, rfl, rfl⟩, by decide⟩
theorem witness_EarlyFaultsChangeNothing :
    verdict (.push [.malformed ['x']]) sample = .raises (.parseError ['x']) ∧
    (EngineFault.parseError ['x']).early = true ∧
    ∃ t, exec (.push [.malformed ['x']]) sample = .next t := ⟨by decide, rfl, _, rfl⟩
/-- Refused, and not refused, under each policy. -/
theorem witness_WrongOperandCounts :
    (Instr.arity (.shl [.reg32 .eax]) ≠ declaredCount .shl ∧ Mnemonic.shl ∈ shiftMnemonics ∧
      Instr.arity (.shl [.reg32 .eax]) = 1) ∧
    (Instr.arity (.shl []) ≠ declaredCount .shl ∧ Instr.arity (.shl []) ≠ 1 ∧ Mnemonic.shl ∉ controlMnemonics) ∧
    sample.cfg.countPolicy = .noop ∧
    { sample with cfg := { sample.cfg with countPolicy := .fault } }.cfg.countPolicy = .fault := by decide
/-- An ill-formed instruction, a well-formed one, and the CMOVcc that is refused. -/
theorem witness_FormTable :
    (Instr.arity (.mov [.imm 5, .reg32 .eax]) = declaredCount .mov ∧
      Instr.printable (.mov [.imm 5, .reg32 .eax]) = true ∧ Instr.wf (.mov [.imm 5, .reg32 .eax]) = false) ∧
    (Instr.arity (.cmovg [.reg32 .eax, .mem (.abs 0x10102)]) = declaredCount .cmovg ∧
      Instr.printable (.cmovg [.reg32 .eax, .mem (.abs 0x10102)]) = true ∧
      Instr.wf (.cmovg [.reg32 .eax, .mem (.abs 0x10102)]) = true ∧
      exec (.cmovg [.reg32 .eax, .mem (.abs 0x10102)]) sample = .refused .formNotAdmitted) :=
  ⟨by decide, ⟨by decide, by decide, by decide, rfl⟩⟩
theorem witness_ModeReaders :
    Mnemonic.shl ∉ [Mnemonic.rol, .ror, .rcl, .rcr, .mul, .imul, .div, .idiv] ∧
    (∀ a b, Instr.shl [.reg32 .eax, .imm 1] ≠ .mov [.mem a, .mem b]) ∧
    (∃ t, exec (.shl [.reg32 .eax, .imm 1]) sample = .next t) ∧
    ∃ r, exec (.shl [.reg8 .al, .imm 1]) sample = .refused r :=
  ⟨by decide, (fun _ _ h => by cases h), ⟨_, rfl⟩, ⟨_, rfl⟩⟩
theorem witness_StateNoInstructionReads : (∃ t, exec (.int [.imm 0x10]) sample = .next t) ∧
    ∃ r, exec (.int [.reg32 .eax]) sample = .refused r := ⟨⟨_, rfl⟩, ⟨_, rfl⟩⟩
theorem witness_MovCopies : Invariant sample ∧
    Instr.wf (.mov [.mem (.abs 0xFFFC), .reg32 .eax]) = true ∧
    writeOk sample (.mem (.abs 0xFFFC)) = true ∧ readOk sample (.reg32 .eax) = true ∧
    ((Operand.mem (.abs 0xFFFC)).isMem && (Operand.reg32 .eax).isMem && sample.mode == .strict) = false := by decide
theorem witness_MovMemoryToMemory : Invariant sample ∧ { sample with mode := .strict }.mode = .strict ∧
    sample.mode = .teaching ∧
    memReadOk sample (ea sample (.reg .ebx)) 4 = true ∧ memWriteOk sample (ea sample (.regPlus .ebx 4)) 4 = true := by
  decide
/-- A condition that holds, one that does not with a source that could not be read, ignored destinations, an 8-bit
register in either place, and a device's address. -/
theorem witness_ConditionalMoves : (Cond.b, Instr.cmovb) ∈ cmovs ∧
    (Instr.wf (.cmovb [.reg32 .eax, .mem (.abs 0xFFFC)]) = true ∧
      isMmio sample.cfg (ea sample (.abs 0xFFFC)).toNat = false ∧ holds .b sample.flags = true ∧
      readOk sample (.mem (.abs 0xFFFC)) = true) ∧
    (holds .ae sample.flags = false ∧ readOk sample (.mem (.abs 0xFFFE)) = false) ∧
    (Instr.wf (.cmovb [.imm 7, .mem (.abs 0xFFFC)]) = true ∧ Instr.wf (.cmovb [.mem (.reg .ebx), .reg32 .eax]) = true) ∧
    ((Operand.reg8 .al).resolved = true ∧ (Operand.mem (.reg .ebx)).resolved = true ∧
      (Operand.isReg8 (.mem (.reg .ebx)) || Operand.isReg8 (.reg8 .al)) = true ∧
      (Operand.isReg8 (.reg8 .al) || Operand.isReg8 (.mem (.reg .ebx))) = true) ∧
    isMmio sample.cfg (ea sample (.abs 0x10102)).toNat = true ∧ Operand.isReg8 (.imm 7) = false :=
  ⟨List.mem_cons_of_mem _ (List.mem_cons_of_mem _ List.mem_cons_self), by decide, by decide, by decide, by decide,
    by decide, rfl⟩
theorem witness_StackInstructions : Invariant sample ∧ Instr.wf (.push [.reg32 .esp]) = true ∧
    readOk sample (.reg32 .esp) = true ∧
    memWriteOk sample (getReg sample .esp - 4) 4 = true ∧
    memReadOk { sample with regs := { zero with esp := 0xFFFC } } 0xFFFC 4 = true ∧
    (let s := { sample with regs := { zero with esp := 0xFFF8 } }
     Invariant s ∧ memReadOk s (getReg s .esp) 4 = true ∧
       memWriteOk s (ea (setReg s .esp (getReg s .esp + 4)) (.reg .esp)) 4 = true) := by decide
theorem witness_PushThenPop : Invariant sample ∧
    Reg32.ebp ≠ .esp ∧ isMmio sample.cfg (getReg sample .esp - 4).toNat = false ∧
    memWriteOk sample (getReg sample .esp - 4) 4 = true := by decide
/-- A register form, and a form that stores the last word of memory. -/
theorem witness_WideTwoOperand : Invariant sample ∧
    Instr.wf (.add [.reg32 .eax, .reg32 .ebx]) = true ∧
    (Instr.wf (.xor [.mem (.abs 0xFFFC), .imm 1]) = true ∧ (Operand.mem (.abs 0xFFFC)).isReg8 = false ∧
      readOk sample (.imm 1) = true ∧ readOk sample (.mem (.abs 0xFFFC)) = true ∧
      writeOk sample (.mem (.abs 0xFFFC)) = true) := by decide
theorem witness_WideCompares : Invariant sample ∧
    Instr.wf (.cmp [.mem (.abs 0x10103), .reg32 .eax]) = true ∧
    readOk sample (.mem (.abs 0x10103)) = true ∧ readOk sample (.reg32 .eax) = true := by decide
theorem witness_WideOneOperand : Invariant sample ∧
    Instr.wf (.neg [.mem (.abs 0xFFFC)]) = true ∧
    readOk sample (.mem (.abs 0xFFFC)) = true ∧ writeOk sample (.mem (.abs 0xFFFC)) = true := by decide
theorem witness_ByteForms : Instr.wf (.add [.reg8 .ah, .imm 255]) = true ∧
    Instr.wf (.test [.reg8 .al, .reg8 .bh]) = true := by decide
theorem witness_ExchangeAdd : (Operand.mem (.reg .ebx)).resolved = true ∧ (Operand.reg8 .al).resolved = true := by
  decide
/-- Sources that are 0 and that are not. -/
theorem witness_BitScans : Instr.wf (.bsf [.reg32 .eax, .mem (.reg .ebx)]) = true ∧
    readOk sample (.mem (.reg .ebx)) = true ∧ peek sample (.mem (.reg .ebx)) ≠ 0 ∧
    peek sample (.mem (.abs 0x10103)) = 0 ∧ readOk sample (.mem (.abs 0x10103)) = true := by decide
theorem witness_Shifts : Invariant sample ∧
    Instr.wf (.shl [.mem (.abs 0xFFFC), .reg8 .cl]) = true ∧
    maskedCount sample (.reg8 .cl) = 3 ∧ maskedCount sample (.imm 33) = 1 ∧ maskedCount sample (.imm 31) = 31 ∧
    readOk sample (.mem (.abs 0xFFFC)) = true ∧ writeOk sample (.mem (.abs 0xFFFC)) = true := by decide
theorem witness_Rotates : Invariant sample ∧
    Instr.wf (.rcr [.reg32 .eax, .imm 31]) = true ∧ maskedCount sample (.imm 31) ≠ 0 ∧
    readOk sample (.reg32 .eax) = true ∧ writeOk sample (.reg32 .eax) = true := by decide
/-- Ordinary memory, and the first and last pixel. -/
theorem witness_ZeroCounts : maskedCount sample (.imm 32) = 0 ∧ Instr.wf (.sar [.mem (.abs 0xFFFE), .imm 32]) = true ∧
    isMmio sample.cfg (ea sample (.abs 0xFFFE)).toNat = false ∧
    isMmio sample.cfg (ea sample (.abs 0x10000)).toNat = true ∧
    isMmio sample.cfg (ea sample (.abs 0x10102)).toNat = true := by decide
theorem witness_Products : Instr.wf (.mul [.mem (.reg .ebx)]) = true ∧ readOk sample (.mem (.reg .ebx)) = true := by
  decide
/-- A divisor of 0; EDX the extension of EAX, and not, for DIV and IDIV; and the quotient that does not fit. -/
theorem witness_Quotients : Instr.wf (.div [.reg32 .ebx]) = true ∧ readOk sample (.reg32 .ebx) = true ∧
    peek sample (.reg32 .ebp) = 0 ∧ peek sample (.reg32 .ebx) ≠ 0 ∧ getReg sample .edx = 0 ∧
    (getReg sample .eax).getLsbD 31 = false ∧
    ¬((getReg sample .eax).toInt = -2 ^ 31 ∧ (peek sample (.reg32 .ebx)).toInt = -1) ∧
    (let s := { sample with regs := { zero with eax := 0x80000000, ebx := 0xFFFFFFFF, edx := 0xFFFFFFFF } }
     getReg s .edx = 0xFFFFFFFF ∧ (getReg s .eax).toInt = -2 ^ 31 ∧ (peek s (.reg32 .ebx)).toInt = -1) := by decide
theorem witness_StringMoves : Invariant sample ∧
    memWriteOk sample (getReg sample .edi) 1 = true := by decide
theorem witness_InterruptAndSystem :
    getReg8 { sample with regs := { zero with eax := 0x0E41 } } .ah = 0x0E ∧
    getReg8 { sample with regs := { zero with eax := 0x0200 } } .ah = 0x02 ∧
    ¬((0x10 : Word) = 0x10 ∧ getReg8 sample .ah = 0x0E) ∧ ¬((0x10 : Word) = 0x21 ∧ getReg8 sample .ah = 0x02) ∧
    (0x10 : Word) ≠ 0x20 ∧ (Operand.reg8 .al).resolved = true ∧ ∀ n, Operand.reg8 .al ≠ .imm n := by
  refine ⟨?_, ?_, ?_, ?_, ?_, rfl, nofun⟩ <;> decide
theorem witness_JumpsCallsAndReturns : sample.labels.lookup "t".toList = some 9 ∧ sample.cs = [2] ∧
    { sample with cs := [] }.cs = [] ∧ (Cond.e, Instr.je) ∈ jumps := ⟨by decide, rfl, rfl, List.mem_cons_self⟩
theorem witness_Loops : sample.labels.lookup "end".toList = some 12 := by decide
theorem witness_MissingLabels : sample.labels.lookup "nowhere".toList = none ∧ Instr.jmp ∈ labelled :=
  ⟨by decide, List.mem_cons_self⟩
theorem witness_ExecWithoutStepper : sample.faulted = false ∧
    (decode ⟨1, "LOOP".toList, [['u']], []⟩ = .ok (.loop [['u']]) ∧ Instr.wf (.loop [['u']]) = true) ∧
    (decode ⟨1, "RET".toList, [], []⟩ = .ok (.ret []) ∧ Instr.wf (.ret []) = true) :=
  ⟨rfl, ⟨by rfl, by decide⟩, ⟨by rfl, by decide⟩⟩
theorem witness_HostInvariantKept : Invariant sample ∧ ∃ t r, hostStep .reset sample = .next (t, r) :=
  ⟨by decide, _, _, rfl⟩

end Sys2Proof.Tests
end

section
/-! # Flag functions

Each flag function of 40_flag_module.md obeys a row of rules and changes no bit but the four flags. -/

namespace Sys2Proof.Machine

/-- The bits of F that are no flag are as before (40_flag_module.md R95). -/
def SameReserved (f g : Word) : Prop := ∀ i, i ∉ [0, 6, 7, 11] → g.getLsbD i = f.getLsbD i

theorem SameReserved.refl (f : Word) : SameReserved f f := fun _ _ => rfl

theorem FlagsObey.sameReserved {rules : FlagRules} {f g : Word} (h : FlagsObey rules f g) : SameReserved f g := h.rest

/-- The rules that leave all four flags free. -/
def allFree : FlagRules := ⟨.free, .free, .free, .free⟩

theorem SameReserved.obeys_allFree {f g : Word} (h : SameReserved f g) : FlagsObey allFree f g :=
  ⟨trivial, trivial, trivial, trivial, h⟩

/-- Flags that do not change obey every rule that gives no value. -/
theorem flagsObey_kept (f : Word) : FlagsObey {} f f := ⟨rfl, rfl, rfl, rfl, fun _ _ => rfl⟩

/-- The reserved bits are those outside the mask of the four flags. -/
theorem reservedClear_iff {f : Word} : reservedClear f ↔ ∀ i, i ∉ [0, 6, 7, 11] → f.getLsbD i = false := by
  have mask : ∀ i < 32, (~~~(0x8C1 : Word)).getLsbD i = decide (i ∉ [0, 6, 7, 11]) := by decide
  constructor
  · intro h i hi
    by_cases hlt : i < 32
    · have hbit : (f &&& ~~~(0x8C1 : Word)).getLsbD i = false := by rw [h]; exact BitVec.getLsbD_zero
      rwa [BitVec.getLsbD_and, mask i hlt, decide_eq_true hi, Bool.and_true] at hbit
    · exact BitVec.getLsbD_of_ge _ _ (by omega)
  · intro h
    refine BitVec.eq_of_getLsbD_eq fun i hlt => ?_
    rw [BitVec.getLsbD_and, mask i hlt]
    by_cases hi : i ∈ [0, 6, 7, 11]
    · simp [hi]
    · simp [h i hi]

theorem SameReserved.reservedClear {f g : Word} (h : SameReserved f g) (hf : reservedClear f) : reservedClear g :=
  reservedClear_iff.mpr fun i hi => (h i hi).trans (reservedClear_iff.mp hf i hi)

theorem getLsbD_putFlag_same (f : Word) {i : Nat} (hi : i < 32) (b : Bool) : (putFlag f i b).getLsbD i = b := by
  rw [getLsbD_putFlag f i b hi, if_pos rfl]

theorem getLsbD_putFlag_other (f : Word) {i j : Nat} (hi : i < 32) (b : Bool) (hj : j ≠ i) :
    (putFlag f i b).getLsbD j = f.getLsbD j := by
  rw [getLsbD_putFlag f i b hi, if_neg hj]

@[simp] theorem cf_putCf (f : Word) (b : Bool) : cf (putCf f b) = b := getLsbD_putFlag_same f (by decide) b
@[simp] theorem zf_putCf (f : Word) (b : Bool) : zf (putCf f b) = zf f :=
  getLsbD_putFlag_other f (by decide) b (by decide)
@[simp] theorem sf_putCf (f : Word) (b : Bool) : sf (putCf f b) = sf f :=
  getLsbD_putFlag_other f (by decide) b (by decide)
@[simp] theorem of_putCf (f : Word) (b : Bool) : of (putCf f b) = of f :=
  getLsbD_putFlag_other f (by decide) b (by decide)
@[simp] theorem cf_putZf (f : Word) (b : Bool) : cf (putZf f b) = cf f :=
  getLsbD_putFlag_other f (by decide) b (by decide)
@[simp] theorem zf_putZf (f : Word) (b : Bool) : zf (putZf f b) = b := getLsbD_putFlag_same f (by decide) b
@[simp] theorem sf_putZf (f : Word) (b : Bool) : sf (putZf f b) = sf f :=
  getLsbD_putFlag_other f (by decide) b (by decide)
@[simp] theorem of_putZf (f : Word) (b : Bool) : of (putZf f b) = of f :=
  getLsbD_putFlag_other f (by decide) b (by decide)
@[simp] theorem cf_putSf (f : Word) (b : Bool) : cf (putSf f b) = cf f :=
  getLsbD_putFlag_other f (by decide) b (by decide)
@[simp] theorem zf_putSf (f : Word) (b : Bool) : zf (putSf f b) = zf f :=
  getLsbD_putFlag_other f (by decide) b (by decide)
@[simp] theorem sf_putSf (f : Word) (b : Bool) : sf (putSf f b) = b := getLsbD_putFlag_same f (by decide) b
@[simp] theorem of_putSf (f : Word) (b : Bool) : of (putSf f b) = of f :=
  getLsbD_putFlag_other f (by decide) b (by decide)
@[simp] theorem cf_putOf (f : Word) (b : Bool) : cf (putOf f b) = cf f :=
  getLsbD_putFlag_other f (by decide) b (by decide)
@[simp] theorem zf_putOf (f : Word) (b : Bool) : zf (putOf f b) = zf f :=
  getLsbD_putFlag_other f (by decide) b (by decide)
@[simp] theorem sf_putOf (f : Word) (b : Bool) : sf (putOf f b) = sf f :=
  getLsbD_putFlag_other f (by decide) b (by decide)
@[simp] theorem of_putOf (f : Word) (b : Bool) : of (putOf f b) = b := getLsbD_putFlag_same f (by decide) b

/-- A bit that is no flag keeps its value when a flag is replaced. -/
theorem SameReserved.putFlag {f g : Word} (h : SameReserved f g) {i : Nat} (hi : i ∈ [0, 6, 7, 11]) (b : Bool) :
    SameReserved f (putFlag g i b) := fun j hj => by
  have hlt : i < 32 := by revert hi; simp only [List.mem_cons, List.not_mem_nil, or_false]; omega
  rw [getLsbD_putFlag_other g hlt b (by rintro rfl; exact hj hi), h j hj]

-- ## Replacing one flag changes the rule of that flag alone

section
variable {rules : FlagRules} {f g : Word} (h : FlagsObey rules f g) (rule : FlagRule) {b : Bool}
include h

theorem flagsObey_putCf (hb : rule.allows (cf f) b) : FlagsObey { rules with cf := rule } f (putCf g b) where
  cf := by simpa using hb
  zf := by simpa using h.zf
  sf := by simpa using h.sf
  of := by simpa using h.of
  rest := SameReserved.putFlag h.rest (by decide) b

theorem flagsObey_putZf (hb : rule.allows (zf f) b) : FlagsObey { rules with zf := rule } f (putZf g b) where
  cf := by simpa using h.cf
  zf := by simpa using hb
  sf := by simpa using h.sf
  of := by simpa using h.of
  rest := SameReserved.putFlag h.rest (by decide) b

theorem flagsObey_putSf (hb : rule.allows (sf f) b) : FlagsObey { rules with sf := rule } f (putSf g b) where
  cf := by simpa using h.cf
  zf := by simpa using h.zf
  sf := by simpa using hb
  of := by simpa using h.of
  rest := SameReserved.putFlag h.rest (by decide) b

theorem flagsObey_putOf (hb : rule.allows (of f) b) : FlagsObey { rules with of := rule } f (putOf g b) where
  cf := by simpa using h.cf
  zf := by simpa using h.zf
  sf := by simpa using h.sf
  of := by simpa using hb
  rest := SameReserved.putFlag h.rest (by decide) b

end

/-- Replacing the four flags obeys the rules that the four values obey. -/
theorem putFlags_obeys {rules : FlagRules} {f : Word} {c z n o : Bool} (hc : rules.cf.allows (cf f) c)
    (hz : rules.zf.allows (zf f) z) (hn : rules.sf.allows (sf f) n) (ho : rules.of.allows (of f) o) :
    FlagsObey rules f (putFlags f c z n o) :=
  flagsObey_putOf (flagsObey_putSf (flagsObey_putZf (flagsObey_putCf (flagsObey_kept f) _ hc) _ hz) _ hn) _ ho

/-- The rules of INC and DEC: CF kept (10_state.md R27). -/
def carryKept : FlagRules := ⟨.kept, .free, .free, .free⟩

/-- The rules of the logical instructions: CF and OF cleared (10_state.md R27). -/
def logicCleared : FlagRules := ⟨.is false, .free, .free, .is false⟩

/-- The rules of the rotates, by mode (10_state.md R27). -/
def rotateFrame (m : Mode) : FlagRules := if m = .teaching then allFree else ⟨.free, .kept, .kept, .free⟩

/-- The rules of MUL and IMUL, by mode (10_state.md R27). -/
def productFrame (m : Mode) : FlagRules := if m = .teaching then allFree else ⟨.free, .is false, .is false, .free⟩

/-- The rules of DIV and IDIV, by mode (10_state.md R27). -/
def quotientFrame (m : Mode) : FlagRules :=
  if m = .teaching then ⟨.kept, .free, .free, .kept⟩ else ⟨.is false, .kept, .kept, .is false⟩

theorem flagsAdd_obeys (f d v r : Word) : FlagsObey allFree f (flagsAdd f d v r) :=
  putFlags_obeys trivial trivial trivial trivial

theorem flagsSub_obeys (f d v r : Word) : FlagsObey allFree f (flagsSub f d v r) :=
  putFlags_obeys trivial trivial trivial trivial

theorem flagsLogic_obeys (f r : Word) : FlagsObey logicCleared f (flagsLogic f r) :=
  putFlags_obeys rfl trivial trivial rfl

theorem flagsInc_obeys (f d r : Word) : FlagsObey carryKept f (flagsInc f d r) :=
  flagsObey_putCf (flagsAdd_obeys f d 1 r) .kept rfl

theorem flagsDec_obeys (f d r : Word) : FlagsObey carryKept f (flagsDec f d r) :=
  flagsObey_putCf (flagsSub_obeys f d 1 r) .kept rfl

theorem flagsNeg_obeys (f d r : Word) : FlagsObey allFree f (flagsNeg f d r) :=
  flagsObey_putCf (flagsSub_obeys f 0 d r) .free trivial

theorem flagsShl_obeys (raw : Bool) (f d : Word) (n c : Nat) (r : Word) :
    FlagsObey allFree f (flagsShl raw f d n c r) :=
  putFlags_obeys trivial trivial trivial trivial

theorem flagsShr_obeys (f d : Word) (c : Nat) (r : Word) : FlagsObey allFree f (flagsShr f d c r) :=
  putFlags_obeys trivial trivial trivial trivial

theorem flagsSar_obeys (f d : Word) (c : Nat) (r : Word) : FlagsObey allFree f (flagsSar f d c r) :=
  putFlags_obeys trivial trivial trivial trivial

/-- CF and OF replaced, then ZF and SF by mode: the flags of both rotate directions. -/
theorem rotateZfSf_obeys (m : Mode) (f r : Word) (c o : Bool) :
    FlagsObey (rotateFrame m) f (rotateZfSf m (putOf (putCf f c) o) r) := by
  have carryOverflow : FlagsObey ⟨.free, .kept, .kept, .free⟩ f (putOf (putCf f c) o) :=
    flagsObey_putOf (flagsObey_putCf (flagsObey_kept f) .free trivial) .free trivial
  cases m with
  | teaching => exact flagsObey_putSf (flagsObey_putZf carryOverflow .free trivial) .free trivial
  | strict => exact carryOverflow

theorem flagsRotL_obeys (m : Mode) (f r : Word) (carry : Bool) (c : Nat) :
    FlagsObey (rotateFrame m) f (flagsRotL m f r carry c) := rotateZfSf_obeys m f r _ _

theorem flagsRotR_obeys (m : Mode) (f r : Word) (carry : Bool) (c : Nat) :
    FlagsObey (rotateFrame m) f (flagsRotR m f r carry c) := rotateZfSf_obeys m f r _ _

theorem flagsMul_obeys (m : Mode) (f lo hi : Word) : FlagsObey (productFrame m) f (flagsMul m f lo hi) := by
  cases m with
  | teaching => exact putFlags_obeys trivial trivial trivial trivial
  | strict => exact putFlags_obeys trivial rfl rfl trivial

theorem flagsDiv_obeys (m : Mode) (f q : Word) : FlagsObey (quotientFrame m) f (flagsDiv m f q) := by
  cases m with
  | teaching => exact flagsObey_putSf (flagsObey_putZf (flagsObey_kept f) .free trivial) .free trivial
  | strict => exact flagsObey_putOf (flagsObey_putCf (flagsObey_kept f) (.is false) rfl) (.is false) rfl

theorem putZf_obeys (f : Word) (z : Bool) : FlagsObey ⟨.kept, .free, .kept, .kept⟩ f (putZf f z) :=
  flagsObey_putZf (flagsObey_kept f) .free trivial

theorem sahfFlags_obeys (f : Word) (b : Byte) : FlagsObey ⟨.free, .free, .free, .kept⟩ f (sahfFlags f b) :=
  flagsObey_putSf (flagsObey_putZf (flagsObey_putCf (flagsObey_kept f) .free trivial) .free trivial) .free trivial

/-- The rules of a row of the byte flag table that come from 10_state.md R27. -/
def byteFrame : ByteOp → FlagRules
  | .inc | .dec => carryKept
  | .logic => logicCleared
  | .add | .sub | .neg => allFree

theorem flagsByte_obeys (op : ByteOp) (f : Word) (a b r : Byte) (xc xz xs xo : Bool) :
    FlagsObey (byteFrame op) f (flagsByte op f a b r xc xz xs xo) := by
  cases op with
  | add | sub | neg => exact putFlags_obeys trivial trivial trivial trivial
  | inc | dec => exact putFlags_obeys rfl trivial trivial trivial
  | logic => exact putFlags_obeys rfl trivial trivial rfl

theorem setByteFlags_obeys (s : State) (op : ByteOp) (a b r : Byte) :
    FlagsObey (byteFrame op) s.flags (setByteFlags s op a b r).flags := flagsByte_obeys ..

end Sys2Proof.Machine
end

section
/-! # What a handler can do

A footprint lists what an instruction may change; `Evolves` is the closure of the named updates within a footprint.
Every handler, completed or raised, stays within the footprint of its instruction: the frames and the invariant are read
off from that. -/

namespace Sys2Proof.Machine

-- ## Every state that a run can end in

/-- The state a run leaves, completed or raised, satisfies `P`; a refusal leaves none. -/
def Run.Ends {α : Type} (P : State → Prop) : Run α → Prop
  | .done _ s => P s
  | .raised _ s => P s
  | .refused _ => True

section
variable {α β : Type} {P : State → Prop}

theorem Run.Ends.bind {x : Run α} (hx : x.Ends P) {k : α → State → Run β} (hk : ∀ a s, P s → (k a s).Ends P) :
    (x.bind k).Ends P := by
  cases x with
  | done a s => exact hk a s hx
  | raised e s => exact hx
  | refused r => trivial

theorem resolved_ends {ops : List Operand} {s : State} (hs : P s) {go : Run Unit} (hgo : go.Ends P) :
    (resolved ops s go).Ends P := by
  induction ops with
  | nil => exact hgo
  | cons op ops ih =>
    cases op with
    | malformed tok => exact hs
    | unshown tok => trivial
    | _ => exact ih

theorem wrongCount_ends (m : Mnemonic) (n : Nat) {s : State} (hs : P s) : (wrongCount m n s).Ends P := by
  unfold wrongCount
  split
  · trivial
  · split <;> exact hs

theorem operands0_ends (m : Mnemonic) {ops : List Operand} {s : State} (hs : P s) {go : Run Unit}
    (hgo : go.Ends P) : (operands0 m ops s go).Ends P := by
  unfold operands0
  split
  · exact hgo
  · exact wrongCount_ends _ _ hs

theorem operands1_ends (m : Mnemonic) {ops : List Operand} {s : State} (hs : P s) {go : Operand → Run Unit}
    (hgo : ∀ a, ops = [a] → (go a).Ends P) : (operands1 m ops s go).Ends P := by
  unfold operands1
  split
  · exact resolved_ends hs (hgo _ rfl)
  · exact wrongCount_ends _ _ hs

theorem operands2_ends (m : Mnemonic) {ops : List Operand} {s : State} (hs : P s) {go : Operand → Operand → Run Unit}
    (hgo : ∀ a b, ops = [a, b] → (go a b).Ends P) : (operands2 m ops s go).Ends P := by
  unfold operands2
  split
  · exact resolved_ends hs (hgo _ _ rfl)
  · exact wrongCount_ends _ _ hs

theorem Form.check_ends (f : Form) {s : State} (hs : P s) {wide narrow : Run Unit} (hw : f = .wide → wide.Ends P)
    (hn : f = .narrow → narrow.Ends P) : (f.check s wide narrow).Ends P := by
  cases f with
  | wide => exact hw rfl
  | narrow => exact hn rfl
  | noop => exact hs
  | reject r => trivial

theorem Form.check_same_ends (f : Form) {s : State} (hs : P s) {body : Run Unit} (hb : body.Ends P) :
    (f.check s body body).Ends P := f.check_ends hs (fun _ => hb) (fun _ => hb)

end

-- ## Footprints

/-- What an instruction may change beside memory, pixels, the keyboard and the draw counter. -/
structure Footprint where
  regs : List Reg32
  flags : Bool
  console : Bool
  halted : Bool

/-- The states that the named updates make of `s` within a footprint. -/
inductive Evolves (fp : Footprint) (s : State) : State → Prop where
  | refl : Evolves fp s s
  | setReg {t : State} {r : Reg32} (v : Word) : Evolves fp s t → r ∈ fp.regs → Evolves fp s (setReg t r v)
  | setFlags {t : State} {f : Word} : Evolves fp s t → fp.flags = true → SameReserved t.flags f →
      Evolves fp s (setFlags t f)
  | addDraws {t : State} (n : Nat) : Evolves fp s t → Evolves fp s (addDraws t n)
  | popEvent {t : State} (event : Byte × Bool) (rest : List (Byte × Bool)) : Evolves fp s t →
      Evolves fp s (popEvent t event rest)
  | memPoke {t : State} {a : Word} {n : Nat} (v : Word) : Evolves fp s t → memWriteOk t a n = true →
      Evolves fp s (memPoke t a n v)
  | say {t : State} (c : Char) : Evolves fp s t → fp.console = true → Evolves fp s (say t c)
  | halt {t : State} : Evolves fp s t → fp.halted = true → Evolves fp s (halt t)

/-- The fields that no handler changes are those of `s`. -/
abbrev DataOnly (s t : State) : Prop :=
  t = { s with
    regs := t.regs, flags := t.flags, bankA := t.bankA, pixels := t.pixels, kq := t.kq, lastCode := t.lastCode,
    lastState := t.lastState, draws := t.draws, console := t.console, halted := t.halted }

-- ## What evolving keeps

section
variable {fp : Footprint} {s t : State}

theorem Evolves.dataOnly (h : Evolves fp s t) : DataOnly s t := by
  induction h with
  | refl => rfl
  | setReg v _ _ ih => exact congrArg (Machine.setReg · _ v) ih
  | setFlags _ _ _ ih => exact congrArg (Machine.setFlags · _) ih
  | addDraws n _ ih => exact congrArg (Machine.addDraws · n) ih
  | popEvent e l _ ih => exact congrArg (Machine.popEvent · e l) ih
  | @memPoke t a n v _ _ ih =>
    rcases memPoke_cases t a n v with e | ⟨i, -, e⟩ | ⟨-, e⟩ <;> rw [e]
    · exact ih
    · exact congrArg (Machine.setPixels · _) ih
    · exact congrArg (Machine.setBankA · _) ih
  | say c _ _ ih => exact congrArg (Machine.say · c) ih
  | halt _ _ ih => exact congrArg Machine.halt ih

theorem Evolves.regsBut (h : Evolves fp s t) : RegsBut fp.regs s t := by
  induction h with
  | refl => exact fun _ _ => rfl
  | setReg v _ hr ih => exact fun q hq => (getReg_setReg_other _ _ q v (fun e => hq (e ▸ hr))).trans (ih q hq)
  | memPoke v _ _ ih => exact fun q hq => (getReg_memPoke ..).trans (ih q hq)
  | setFlags _ _ _ ih | addDraws _ _ ih | popEvent _ _ _ ih | say _ _ _ ih | halt _ _ ih => exact ih

theorem Evolves.flags (h : Evolves fp s t) (hf : fp.flags = false) : t.flags = s.flags := by
  induction h with
  | refl => rfl
  | setFlags _ hw _ _ => rw [hf] at hw; cases hw
  | memPoke v _ _ ih => rw [memPoke_flags, ih]
  | setReg _ _ _ ih | addDraws _ _ ih | popEvent _ _ _ ih | say _ _ _ ih | halt _ _ ih => exact ih

theorem Evolves.sameReserved (h : Evolves fp s t) : SameReserved s.flags t.flags := by
  induction h with
  | refl => exact .refl _
  | setFlags _ _ hr ih => exact fun j hj => (hr j hj).trans (ih j hj)
  | memPoke v _ _ ih => rwa [memPoke_flags]
  | setReg _ _ _ ih | addDraws _ _ ih | popEvent _ _ _ ih | say _ _ _ ih | halt _ _ ih => exact ih

theorem Evolves.console (h : Evolves fp s t) (hc : fp.console = false) : t.console = s.console := by
  induction h with
  | refl => rfl
  | say c _ hw _ => rw [hc] at hw; cases hw
  | memPoke v _ _ ih => rw [memPoke_console, ih]
  | setReg _ _ _ ih | setFlags _ _ _ ih | addDraws _ _ ih | popEvent _ _ _ ih | halt _ _ ih => exact ih

theorem Evolves.halted (h : Evolves fp s t) (hh : fp.halted = false) : t.halted = s.halted := by
  induction h with
  | refl => rfl
  | halt _ hw _ => rw [hh] at hw; cases hw
  | memPoke v _ _ ih => rw [memPoke_halted, ih]
  | setReg _ _ _ ih | setFlags _ _ _ ih | addDraws _ _ ih | popEvent _ _ _ ih | say _ _ _ ih => exact ih

-- ## The operations of handlers evolve

theorem Evolves.memTouch (h : Evolves fp s t) (a : Word) : Evolves fp s (memTouch t a) := by
  rcases memTouch_cases t a with e | e | ⟨event, rest, -, e⟩ <;> rw [e]
  · exact h
  · exact h.addDraws 1
  · exact h.popEvent event rest

theorem Evolves.setReg8 (h : Evolves fp s t) {r : Reg8} (hr : reg8Parent r ∈ fp.regs) (b : Byte) :
    Evolves fp s (setReg8 t r b) := h.setReg _ hr

theorem Evolves.bump (h : Evolves fp s t) {r : Reg32} (hr : r ∈ fp.regs) : Evolves fp s (bump t r) := h.setReg _ hr

theorem Evolves.setByteFlags (h : Evolves fp s t) (hf : fp.flags = true) (op : ByteOp) (a b r : Byte) :
    Evolves fp s (setByteFlags t op a b r) := (h.setFlags hf (flagsByte_obeys ..).sameReserved).addDraws 4

theorem Evolves.poke (h : Evolves fp s t) {op : Operand} (hd : destReg op ⊆ fp.regs) (hw : writeOk t op = true)
    (v : Word) : Evolves fp s (poke t op v) := by
  cases op with
  | reg32 r => exact h.setReg v (hd List.mem_cons_self)
  | reg8 r => exact h.setReg8 (hd List.mem_cons_self) _
  | mem m => exact h.memPoke v hw
  | imm _ | malformed _ | unshown _ => exact h

theorem memRead_ends (h : Evolves fp s t) (a : Word) (n : Nat) : (memRead t a n).Ends (Evolves fp s) := by
  unfold memRead
  split
  · exact h.memTouch a
  · trivial

theorem memWrite_ends (h : Evolves fp s t) (a : Word) (n : Nat) (v : Word) :
    (memWrite t a n v).Ends (Evolves fp s) := by
  unfold memWrite
  split
  · trivial
  · split
    · exact h.memPoke v ‹_›
    · exact h

theorem readOp_ends (h : Evolves fp s t) (op : Operand) : (readOp t op).Ends (Evolves fp s) := by
  cases op with
  | mem m => exact memRead_ends h _ _
  | _ => exact h

theorem writeOp_ends (h : Evolves fp s t) {op : Operand} (hd : destReg op ⊆ fp.regs) (v : Word) :
    (writeOp t op v).Ends (Evolves fp s) := by
  cases op with
  | mem m => exact memWrite_ends h _ _ _
  | _ => exact h.poke hd rfl v

end

-- ## The shared frames stay within a footprint

section
variable {fp : Footprint} {s : State} {ops : List Operand} {m : Mnemonic}

theorem binaryOp_ends {f : Word → Word → Word} {fl : Word → Word → Word → Word → Word} {op : ByteOp}
    {rules : FlagRules} (hr : (ops.take 1).flatMap destReg ⊆ fp.regs) (hf : fp.flags = true)
    (hfl : ∀ g d v r, FlagsObey rules g (fl g d v r)) : (binaryOp m f fl op ops s).Ends (Evolves fp s) := by
  refine operands2_ends m .refl fun dst src hops => ?_
  subst hops
  have hd : destReg dst ⊆ fp.regs := by simpa using hr
  refine Form.check_ends _ .refl (fun _ => ?_) (fun _ => ?_) <;>
    refine (readOp_ends .refl src).bind fun v s1 h1 => (readOp_ends h1 dst).bind fun d s2 h2 =>
      (writeOp_ends h2 hd _).bind fun _ s3 h3 => ?_
  · exact h3.setFlags hf (hfl ..).sameReserved
  · exact h3.setByteFlags hf ..

theorem compareOp_ends {f : Word → Word → Word} {fl : Word → Word → Word → Word → Word} {op : ByteOp}
    {rules : FlagRules} (hf : fp.flags = true) (hfl : ∀ g d v r, FlagsObey rules g (fl g d v r)) :
    (compareOp m f fl op ops s).Ends (Evolves fp s) := by
  refine operands2_ends m .refl fun dst src _ => Form.check_ends _ .refl (fun _ => ?_) (fun _ => ?_) <;>
    refine (readOp_ends .refl src).bind fun v s1 h1 => (readOp_ends h1 dst).bind fun d s2 h2 => ?_
  · exact h2.setFlags hf (hfl ..).sameReserved
  · exact h2.setByteFlags hf ..

theorem unaryOp_ends {f : Word → Word} {fl : Word → Word → Word → Word} {op : ByteOp} {b : Byte}
    {rules : FlagRules} (hr : (ops.take 1).flatMap destReg ⊆ fp.regs) (hf : fp.flags = true)
    (hfl : ∀ g d r, FlagsObey rules g (fl g d r)) : (unaryOp m f fl op b ops s).Ends (Evolves fp s) := by
  refine operands1_ends m .refl fun dst hops => ?_
  subst hops
  have hd : destReg dst ⊆ fp.regs := by simpa using hr
  refine Form.check_ends _ .refl (fun _ => ?_) (fun _ => ?_) <;>
    refine (readOp_ends .refl dst).bind fun d s1 h1 => (writeOp_ends h1 hd _).bind fun _ s2 h2 => ?_
  · exact h2.setFlags hf (hfl ..).sameReserved
  · exact h2.setByteFlags hf ..

/-- A value read from the source is written to the destination, as MOV and CMOVcc do. -/
theorem move_ends {dst src : Operand} (hd : destReg dst ⊆ fp.regs) :
    ((readOp s src).bind fun v s1 => writeOp s1 dst v).Ends (Evolves fp s) :=
  (readOp_ends .refl src).bind fun v _ h1 => writeOp_ends h1 hd v

theorem cmov_ends {c : Cond} (hr : (ops.take 1).flatMap destReg ⊆ fp.regs) :
    (cmov m c ops s).Ends (Evolves fp s) := by
  refine operands2_ends m .refl fun dst src hops => Form.check_same_ends _ .refl ?_
  subst hops
  split
  · exact move_ends (by simpa using hr)
  · exact .refl

/-- BSF and BSR have a register destination. -/
theorem formScan_dest {dst src : Operand} (h : formScan dst src = .wide ∨ formScan dst src = .narrow) :
    ∃ r, dst = .reg32 r := by
  cases dst with
  | reg32 r => exact ⟨r, rfl⟩
  | _ => cases src <;> simp [formScan, Form.never, Form.byteOnly] at h

theorem scanOp_ends {index : Word → Nat} (hr : (ops.take 1).flatMap destReg ⊆ fp.regs) (hf : fp.flags = true) :
    (scanOp m index ops s).Ends (Evolves fp s) := by
  refine operands2_ends m .refl fun dst src hops => ?_
  subst hops
  have hd : destReg dst ⊆ fp.regs := by simpa using hr
  suffices h : (∃ r, dst = .reg32 r) → ((readOp s src).bind fun v s1 =>
      if v = 0 then .done () (setFlags s1 (putZf s1.flags true))
      else .done () (setFlags (poke s1 dst (BitVec.ofNat 32 (index v))) (putZf s1.flags false))).Ends
        (Evolves fp s) from
    Form.check_ends _ .refl (fun hw => h (formScan_dest (.inl hw))) (fun hn => h (formScan_dest (.inr hn)))
  rintro ⟨r, rfl⟩
  refine (readOp_ends .refl src).bind fun v s1 h1 => ?_
  split
  · exact h1.setFlags hf (putZf_obeys ..).sameReserved
  · exact (h1.poke hd rfl _).setFlags hf (putZf_obeys ..).sameReserved

theorem shiftOp_ends {f : Word → Word → Nat → Word} {fl : State → Word → Nat → Nat → Word → Word}
    {rules : State → FlagRules} (hr : (ops.take 1).flatMap destReg ⊆ fp.regs) (hf : fp.flags = true)
    (hfl : ∀ u d n c r, FlagsObey (rules u) u.flags (fl u d n c r)) :
    (shiftOp m f fl ops s).Ends (Evolves fp s) := by
  refine operands2_ends m .refl fun dst count hops =>
    Form.check_same_ends _ .refl <| (readOp_ends .refl count).bind fun n s1 h1 => ?_
  subst hops
  have hd : destReg dst ⊆ fp.regs := by simpa using hr
  split
  · split
    · trivial
    · exact h1
  · exact (readOp_ends h1 dst).bind fun d s2 h2 => (writeOp_ends h2 hd _).bind fun _ s3 h3 =>
      h3.setFlags hf (hfl ..).sameReserved

theorem accumulatorOp_ends {go : Word → State → Run Unit}
    (hgo : ∀ v t, Evolves fp s t → (go v t).Ends (Evolves fp s)) : (accumulatorOp m ops s go).Ends (Evolves fp s) :=
  operands1_ends m .refl fun src _ => Form.check_same_ends _ .refl ((readOp_ends .refl src).bind hgo)

/-- The handler part of an instruction with one label. -/
theorem oneLabel_ends {labels : List Text} {effect : State → State} (h : Evolves fp s (effect s)) :
    (oneLabel labels s effect).Ends (Evolves fp s) := by
  unfold oneLabel
  split
  · exact h
  · trivial

end

-- ## The footprint of each instruction

/-- The mnemonics of the instructions that write flags (10_state.md R27). -/
def writesFlags : Mnemonic → Bool
  | .add | .sub | .cmp | .inc | .dec | .neg | .xadd | .and | .or | .xor | .test | .bsf | .bsr
  | .shl | .shr | .sar | .rol | .ror | .rcl | .rcr | .mul | .imul | .div | .idiv | .scas | .cmps | .sahf => true
  | _ => false

/-- The mnemonics of the instructions that may set `halted` (10_state.md R32). -/
def mayHalt : Mnemonic → Bool
  | .int | .int3 | .hlt => true
  | _ => false

/-- What an instruction may change, by its rule. -/
def footprint (i : Instr) : Footprint where
  regs := writtenRegs i
  flags := writesFlags i.mnemonic
  console := i.mnemonic == .int
  halted := mayHalt i.mnemonic

/-- The first operand's register is among those of the operands written. -/
theorem destReg_subset (dst : Operand) {rest : List Operand} :
    destReg dst ⊆ ((dst :: rest).take 1).flatMap destReg := by simp

-- ## The handlers that have a frame of their own

section
variable {s t : State} {ops : List Operand}

theorem handleMov_ends : (handleMov ops s).Ends (Evolves (footprint (.mov ops)) s) := by
  refine operands2_ends _ .refl fun dst src hops => Form.check_same_ends _ .refl ?_
  subst hops
  split
  · exact .refl
  · exact move_ends (destReg_subset dst)

theorem handlePush_ends : (handlePush ops s).Ends (Evolves (footprint (.push ops)) s) :=
  operands1_ends _ .refl fun src _ => Form.check_same_ends _ .refl <| (readOp_ends .refl src).bind fun _ _ h =>
    memWrite_ends (h.setReg _ List.mem_cons_self) _ 4 _

theorem handlePop_ends : (handlePop ops s).Ends (Evolves (footprint (.pop ops)) s) := by
  refine operands1_ends _ .refl fun dst hops => Form.check_same_ends _ .refl ?_
  subst hops
  exact (memRead_ends .refl _ 4).bind fun _ _ h =>
    writeOp_ends (h.setReg _ List.mem_cons_self) (List.subset_cons_of_subset _ (destReg_subset dst)) _

theorem handleLahf_ends : (handleLahf ops s).Ends (Evolves (footprint (.lahf ops)) s) :=
  operands0_ends _ .refl (Evolves.refl.setReg8 List.mem_cons_self _)

theorem handleSahf_ends : (handleSahf ops s).Ends (Evolves (footprint (.sahf ops)) s) :=
  operands0_ends _ .refl (Evolves.refl.setFlags rfl (sahfFlags_obeys ..).sameReserved)

theorem handleBswap_ends : (handleBswap ops s).Ends (Evolves (footprint (.bswap ops)) s) := by
  refine operands1_ends _ .refl fun dst hops => Form.check_same_ends _ .refl ?_
  subst hops
  exact (readOp_ends .refl dst).bind fun _ _ h => writeOp_ends h (destReg_subset dst) _

theorem handleAnd_ends : (handleAnd ops s).Ends (Evolves (footprint (.and ops)) s) :=
  binaryOp_ends (List.Subset.refl _) rfl fun g _ _ r => flagsLogic_obeys g r

theorem handleOr_ends : (handleOr ops s).Ends (Evolves (footprint (.or ops)) s) :=
  binaryOp_ends (List.Subset.refl _) rfl fun g _ _ r => flagsLogic_obeys g r

theorem handleXor_ends : (handleXor ops s).Ends (Evolves (footprint (.xor ops)) s) :=
  binaryOp_ends (List.Subset.refl _) rfl fun g _ _ r => flagsLogic_obeys g r

/-- XADD exchanges two registers. -/
theorem formXadd_operands {dst src : Operand} (h : formXadd dst src = .wide ∨ formXadd dst src = .narrow) :
    ∃ r q, dst = .reg32 r ∧ src = .reg32 q := by
  cases dst <;> cases src <;> simp [formXadd, Form.never, Form.byteOnly] at h ⊢

theorem handleXadd_ends : (handleXadd ops s).Ends (Evolves (footprint (.xadd ops)) s) := by
  refine operands2_ends _ .refl fun dst src hops => ?_
  subst hops
  suffices h : (∃ r q, dst = .reg32 r ∧ src = .reg32 q) →
      Evolves (footprint (.xadd [dst, src])) s (xaddRegs s dst src) from
    Form.check_ends _ .refl (fun hw => h (formXadd_operands (.inl hw))) (fun hn => h (formXadd_operands (.inr hn)))
  rintro ⟨r, q, rfl, rfl⟩
  exact ((Evolves.refl.setReg _ (List.mem_cons_of_mem _ List.mem_cons_self)).setReg _ List.mem_cons_self).setFlags rfl
    (flagsAdd_obeys ..).sameReserved

theorem handleShl_ends : (handleShl ops s).Ends (Evolves (footprint (.shl ops)) s) :=
  shiftOp_ends (List.Subset.refl _) rfl fun u d n c r => flagsShl_obeys _ u.flags d n c r

theorem handleShr_ends : (handleShr ops s).Ends (Evolves (footprint (.shr ops)) s) :=
  shiftOp_ends (List.Subset.refl _) rfl fun u d _ c r => flagsShr_obeys u.flags d c r

theorem handleSar_ends : (handleSar ops s).Ends (Evolves (footprint (.sar ops)) s) :=
  shiftOp_ends (List.Subset.refl _) rfl fun u d _ c r => flagsSar_obeys u.flags d c r

theorem handleRol_ends : (handleRol ops s).Ends (Evolves (footprint (.rol ops)) s) :=
  shiftOp_ends (List.Subset.refl _) rfl fun u _ _ c r => flagsRotL_obeys u.mode u.flags r _ c

theorem handleRor_ends : (handleRor ops s).Ends (Evolves (footprint (.ror ops)) s) :=
  shiftOp_ends (List.Subset.refl _) rfl fun u _ _ c r => flagsRotR_obeys u.mode u.flags r _ c

theorem handleRcl_ends : (handleRcl ops s).Ends (Evolves (footprint (.rcl ops)) s) :=
  shiftOp_ends (List.Subset.refl _) rfl fun u _ _ c r => flagsRotL_obeys u.mode u.flags r _ c

theorem handleRcr_ends : (handleRcr ops s).Ends (Evolves (footprint (.rcr ops)) s) :=
  shiftOp_ends (List.Subset.refl _) rfl fun u _ _ c r => flagsRotR_obeys u.mode u.flags r _ c

theorem Evolves.setProduct {fp : Footprint} (h : Evolves fp s t) (hr : fp.regs = [.eax, .edx]) (hf : fp.flags = true)
    (lo hi : Word) : Evolves fp s (setProduct t lo hi) :=
  ((h.setReg lo (by simp [hr])).setReg hi (by simp [hr])).setFlags hf (flagsMul_obeys ..).sameReserved

theorem Evolves.setQuotient {fp : Footprint} (h : Evolves fp s t) (hr : fp.regs = [.eax, .edx]) (hf : fp.flags = true)
    (q rem : Word) : Evolves fp s (setQuotient t q rem) :=
  ((h.setReg q (by simp [hr])).setReg rem (by simp [hr])).setFlags hf (flagsDiv_obeys ..).sameReserved

theorem handleMul_ends : (handleMul ops s).Ends (Evolves (footprint (.mul ops)) s) :=
  accumulatorOp_ends fun _ _ h => h.setProduct rfl rfl ..

theorem handleImul_ends : (handleImul ops s).Ends (Evolves (footprint (.imul ops)) s) :=
  accumulatorOp_ends fun _ _ h => h.setProduct rfl rfl ..

theorem handleDiv_ends : (handleDiv ops s).Ends (Evolves (footprint (.div ops)) s) :=
  accumulatorOp_ends fun v u h => by
    split
    · exact h.setQuotient rfl rfl ..
    · split
      · trivial
      · exact h.setQuotient rfl rfl ..

theorem handleIdiv_ends : (handleIdiv ops s).Ends (Evolves (footprint (.idiv ops)) s) :=
  accumulatorOp_ends fun v u h => by
    split
    · exact h.setQuotient rfl rfl ..
    · split
      · trivial
      · split
        · trivial
        · exact h.setQuotient rfl rfl ..

theorem handleLods_ends : (handleLods ops s).Ends (Evolves (footprint (.lods ops)) s) :=
  operands0_ends _ .refl <| (memRead_ends .refl _ 1).bind fun _ _ h =>
    (h.setReg8 List.mem_cons_self _).bump (List.mem_cons_of_mem _ List.mem_cons_self)

theorem handleStos_ends : (handleStos ops s).Ends (Evolves (footprint (.stos ops)) s) :=
  operands0_ends _ .refl <| (memWrite_ends .refl _ 1 _).bind fun _ _ h => h.bump List.mem_cons_self

theorem handleMovs_ends : (handleMovs ops s).Ends (Evolves (footprint (.movs ops)) s) :=
  operands0_ends _ .refl <| (memRead_ends .refl _ 1).bind fun _ _ h1 => (memWrite_ends h1 _ 1 _).bind fun _ _ h2 =>
    (h2.bump List.mem_cons_self).bump (List.mem_cons_of_mem _ List.mem_cons_self)

theorem handleScas_ends : (handleScas ops s).Ends (Evolves (footprint (.scas ops)) s) :=
  operands0_ends _ .refl <| (memRead_ends .refl _ 1).bind fun _ _ h =>
    (h.setByteFlags rfl ..).bump List.mem_cons_self

theorem handleCmps_ends : (handleCmps ops s).Ends (Evolves (footprint (.cmps ops)) s) :=
  operands0_ends _ .refl <| (memRead_ends .refl _ 1).bind fun _ _ h1 => (memRead_ends h1 _ 1).bind fun _ _ h2 =>
    ((h2.setByteFlags rfl ..).bump List.mem_cons_self).bump (List.mem_cons_of_mem _ List.mem_cons_self)

/-- The services of INT: a character to the console, halting, or nothing (47_interrupt_system.md R170 to R174). -/
theorem Evolves.service {fp : Footprint} (h : Evolves fp s t) (hc : fp.console = true) (hh : fp.halted = true)
    (v : Word) : Evolves fp s (service v t) := by
  unfold Machine.service
  split
  · split
    · exact h.say _ hc
    · exact h
  · split
    · exact h.halt hh
    · split
      · split
        · exact h.say _ hc
        · exact h
      · exact h

theorem handleInt_ends : (handleInt ops s).Ends (Evolves (footprint (.int ops)) s) :=
  operands1_ends _ .refl fun n _ => Form.check_same_ends _ .refl <| (readOp_ends .refl n).bind fun v _ h =>
    h.service rfl rfl v

theorem handleRet_ends {labels : List Text} : (handleRet labels s).Ends (Evolves (footprint (.ret labels)) s) := by
  unfold handleRet
  split
  · exact .refl
  · trivial

end

/-- Every handler stays within the footprint of its instruction. -/
theorem handler_ends (i : Instr) (s : State) : (handler i s).Ends (Evolves (footprint i) s) := by
  cases i with
  | mov ops => exact handleMov_ends
  | cmovo ops | cmovno ops | cmovb ops | cmovae ops | cmove ops | cmovz ops | cmovne ops | cmovnz ops | cmovbe ops
  | cmova ops | cmovs ops | cmovns ops | cmovl ops | cmovge ops | cmovle ops | cmovg ops =>
    exact cmov_ends (List.Subset.refl _)
  | push ops => exact handlePush_ends
  | pop ops => exact handlePop_ends
  | lahf ops => exact handleLahf_ends
  | sahf ops => exact handleSahf_ends
  | bswap ops => exact handleBswap_ends
  | add ops => exact binaryOp_ends (List.Subset.refl _) rfl flagsAdd_obeys
  | sub ops => exact binaryOp_ends (List.Subset.refl _) rfl flagsSub_obeys
  | and ops => exact handleAnd_ends
  | or ops => exact handleOr_ends
  | xor ops => exact handleXor_ends
  | cmp ops => exact compareOp_ends rfl flagsSub_obeys
  | test ops => exact compareOp_ends rfl fun g _ _ r => flagsLogic_obeys g r
  | inc ops => exact unaryOp_ends (List.Subset.refl _) rfl flagsInc_obeys
  | dec ops => exact unaryOp_ends (List.Subset.refl _) rfl flagsDec_obeys
  | neg ops => exact unaryOp_ends (List.Subset.refl _) rfl flagsNeg_obeys
  | xadd ops => exact handleXadd_ends
  | bsf ops | bsr ops => exact scanOp_ends (List.Subset.refl _) rfl
  | shl ops => exact handleShl_ends
  | shr ops => exact handleShr_ends
  | sar ops => exact handleSar_ends
  | rol ops => exact handleRol_ends
  | ror ops => exact handleRor_ends
  | rcl ops => exact handleRcl_ends
  | rcr ops => exact handleRcr_ends
  | mul ops => exact handleMul_ends
  | imul ops => exact handleImul_ends
  | div ops => exact handleDiv_ends
  | idiv ops => exact handleIdiv_ends
  | lods ops => exact handleLods_ends
  | stos ops => exact handleStos_ends
  | movs ops => exact handleMovs_ends
  | scas ops => exact handleScas_ends
  | cmps ops => exact handleCmps_ends
  | int ops => exact handleInt_ends
  | int3 ops | hlt ops => exact operands0_ends _ .refl (Evolves.refl.halt rfl)
  | iret ops => exact operands0_ends _ .refl Evolves.refl
  | ret labels => exact handleRet_ends
  | loop labels | loope labels | loopne labels | loopz labels | loopnz labels =>
    exact oneLabel_ends (Evolves.refl.setReg _ List.mem_cons_self)
  | _ labels => exact oneLabel_ends Evolves.refl

end Sys2Proof.Machine
end

section
/-! # What no handler reads

A `HostSide` is a change of the fields that belong to the host, of the mode, and of what stands in front of the console.
Every handler commutes with it, so no handler reads them, but for the handlers that read the mode. -/

namespace Sys2Proof.Machine

/-- Other values for the mode, `running`, bank B, the breakpoints and the program, and a text in front of the
console. -/
structure HostSide where
  mode : Mode → Mode := id
  running : Bool → Bool := id
  bankB : Memory → Memory := id
  bps : List Int → List Int := id
  prog : List Record → List Record := id
  console : Text := []

/-- The state with the other values in it. -/
def HostSide.put (h : HostSide) (s : State) : State :=
  { s with
    mode := h.mode s.mode
    running := h.running s.running
    bankB := h.bankB s.bankB
    bps := h.bps s.bps
    prog := h.prog s.prog
    console := h.console ++ s.console }

/-- A run with a function applied to the state it leaves. -/
def Run.map {α : Type} (g : State → State) : Run α → Run α
  | .done a s => .done a (g s)
  | .raised e s => .raised e (g s)
  | .refused r => .refused r

/-- An outcome with a function applied to the next state. -/
def onNext (g : State → State) : Host.Outcome State Fault Refusal → Host.Outcome State Fault Refusal
  | .next s => .next (g s)
  | .fault f => .fault f
  | .refused r => .refused r

@[simp] theorem Run.map_done {α : Type} (g : State → State) (a : α) (s : State) :
    (Run.done a s).map g = .done a (g s) := rfl
@[simp] theorem Run.map_raised {α : Type} (g : State → State) (e : EngineFault) (s : State) :
    (Run.raised e s : Run α).map g = .raised e (g s) := rfl
@[simp] theorem Run.map_refused {α : Type} (g : State → State) (r : Refusal) :
    (Run.refused r : Run α).map g = .refused r := rfl

-- ## The updates commute

section
variable (h : HostSide) (s : State)

@[simp] theorem put_cfg : (h.put s).cfg = s.cfg := rfl
@[simp] theorem put_flags : (h.put s).flags = s.flags := rfl
@[simp] theorem put_cs : (h.put s).cs = s.cs := rfl
@[simp] theorem put_mode : (h.put s).mode = h.mode s.mode := rfl
@[simp] theorem put_kq : (h.put s).kq = s.kq := rfl
@[simp] theorem put_labels : (h.put s).labels = s.labels := rfl

@[simp] theorem getReg_put (r : Reg32) : getReg (h.put s) r = getReg s r := rfl
@[simp] theorem getReg8_put (r : Reg8) : getReg8 (h.put s) r = getReg8 s r := rfl
@[simp] theorem ea_put (m : MemShape) : ea (h.put s) m = ea s m := by cases m <;> rfl

@[simp] theorem setReg_put (r : Reg32) (v : Word) : setReg (h.put s) r v = h.put (setReg s r v) := rfl
@[simp] theorem setReg8_put (r : Reg8) (b : Byte) : setReg8 (h.put s) r b = h.put (setReg8 s r b) := rfl
@[simp] theorem setFlags_put (f : Word) : setFlags (h.put s) f = h.put (setFlags s f) := rfl
@[simp] theorem halt_put : halt (h.put s) = h.put (halt s) := rfl
@[simp] theorem say_put (c : Char) : say (h.put s) c = h.put (say s c) := by
  simp [say, HostSide.put, List.append_assoc]

@[simp] theorem devTouch_put (a : Nat) : devTouch (h.put s) a = h.put (devTouch s a) := by
  unfold devTouch afterKeyCode
  rw [put_cfg, put_kq]
  split
  · split
    · split <;> rfl
    · rfl
  all_goals rfl

@[simp] theorem memTouch_put (a : Word) : memTouch (h.put s) a = h.put (memTouch s a) := by
  unfold memTouch
  rw [put_cfg, devTouch_put]
  split <;> rfl

theorem loadBytes_put (a n : Nat) : loadBytes (h.put s) a n = loadBytes s a n := by
  induction n generalizing a with
  | zero => rfl
  | succ n ih => rw [loadBytes, loadBytes, ih]; rfl

@[simp] theorem memPeek_put (a : Word) (n : Nat) : memPeek (h.put s) a n = memPeek s a n := by
  unfold memPeek
  rw [loadBytes_put]
  rfl

@[simp] theorem memRead_put (a : Word) (n : Nat) : memRead (h.put s) a n = (memRead s a n).map h.put := by
  unfold memRead memReadOk
  rw [put_cfg]
  split <;> simp

@[simp] theorem memPoke_put (a : Word) (n : Nat) (v : Word) : memPoke (h.put s) a n v = h.put (memPoke s a n v) := by
  unfold memPoke devPoke
  rw [put_cfg]
  split
  · split
    · split <;> rfl
    all_goals rfl
  · rfl

@[simp] theorem memWrite_put (a : Word) (n : Nat) (v : Word) :
    memWrite (h.put s) a n v = (memWrite s a n v).map h.put := by
  unfold memWrite memWriteOk
  rw [put_cfg, memPoke_put]
  split
  · rfl
  · split <;> rfl

@[simp] theorem peek_put (op : Operand) : peek (h.put s) op = peek s op := by
  cases op <;> simp [peek]

@[simp] theorem readOp_put (op : Operand) : readOp (h.put s) op = (readOp s op).map h.put := by
  cases op <;> simp [readOp]

@[simp] theorem poke_put (op : Operand) (v : Word) : poke (h.put s) op v = h.put (poke s op v) := by
  cases op <;> simp [poke]

@[simp] theorem writeOp_put (op : Operand) (v : Word) : writeOp (h.put s) op v = (writeOp s op v).map h.put := by
  cases op <;> simp [writeOp]

@[simp] theorem mmioOperand_put (op : Operand) : mmioOperand (h.put s) op = mmioOperand s op := by
  cases op <;> simp [mmioOperand]

@[simp] theorem formCmov_put (dst src : Operand) : formCmov (h.put s) dst src = formCmov s dst src := by
  cases dst <;> cases src <;> simp [formCmov]

@[simp] theorem takeFault_put (e : EngineFault) : takeFault e (h.put s) = h.put (takeFault e s) := by
  cases he : e.early <;> simp only [takeFault, he] <;> rfl

theorem finish_map (x : Run Unit) : finish (x.map h.put) = onNext h.put (finish x) := by
  cases x with
  | raised e u => exact congrArg Host.Outcome.next (takeFault_put h u e)
  | done a u | refused r => rfl

-- ## The counts, tokens and forms commute

theorem wrongCount_put (m : Mnemonic) (n : Nat) : wrongCount m n (h.put s) = (wrongCount m n s).map h.put := by
  unfold wrongCount
  rw [put_cfg]
  split
  · rfl
  · split <;> rfl

end

section
variable {h : HostSide} {s : State} {m : Mnemonic} {ops : List Operand}

theorem resolved_put {go' go : Run Unit} (hgo : go' = go.map h.put) :
    resolved ops (h.put s) go' = (resolved ops s go).map h.put := by
  induction ops with
  | nil => exact hgo
  | cons op ops ih =>
    cases op with
    | malformed tok | unshown tok => rfl
    | _ => exact ih

theorem operands0_put {go' go : Run Unit} (hgo : go' = go.map h.put) :
    operands0 m ops (h.put s) go' = (operands0 m ops s go).map h.put := by
  unfold operands0
  split
  · exact hgo
  · exact wrongCount_put ..

theorem operands1_put {go' go : Operand → Run Unit} (hgo : ∀ a, ops = [a] → go' a = (go a).map h.put) :
    operands1 m ops (h.put s) go' = (operands1 m ops s go).map h.put := by
  unfold operands1
  split
  · exact resolved_put (hgo _ rfl)
  · exact wrongCount_put ..

theorem operands2_put {go' go : Operand → Operand → Run Unit}
    (hgo : ∀ a b, ops = [a, b] → go' a b = (go a b).map h.put) :
    operands2 m ops (h.put s) go' = (operands2 m ops s go).map h.put := by
  unfold operands2
  split
  · exact resolved_put (hgo _ _ rfl)
  · exact wrongCount_put ..

theorem Form.check_put {f : Form} {wide' narrow' wide narrow : Run Unit} (hw : wide' = wide.map h.put)
    (hn : narrow' = narrow.map h.put) : f.check (h.put s) wide' narrow' = (f.check s wide narrow).map h.put := by
  cases f with
  | wide => exact hw
  | narrow => exact hn
  | noop | reject r => rfl

theorem Form.check_same_put {f : Form} {body' body : Run Unit} (hb : body' = body.map h.put) :
    f.check (h.put s) body' body' = (f.check s body body).map h.put := Form.check_put hb hb

-- ## The shared frames commute

/-- Runs in sequence commute when both parts do. -/
theorem bind_put {α β : Type} {x' x : Run α} {k : α → State → Run β} (hx : x' = x.map h.put)
    (hk : ∀ a u, k a (h.put u) = (k a u).map h.put) : x'.bind k = (x.bind k).map h.put := by
  subst hx
  cases x with
  | done a u => exact hk a u
  | raised e u | refused r => rfl

/-- A choice between two runs commutes when both do. -/
theorem ite_put {c : Prop} [Decidable c] {x' x y' y : Run Unit} (hx : x' = x.map h.put) (hy : y' = y.map h.put) :
    (if c then x' else y') = (if c then x else y).map h.put := by split <;> assumption

theorem binaryOp_put {f : Word → Word → Word} {fl : Word → Word → Word → Word → Word} {op : ByteOp} :
    binaryOp m f fl op ops (h.put s) = (binaryOp m f fl op ops s).map h.put :=
  operands2_put fun _ _ _ => Form.check_put
    (bind_put (readOp_put ..) fun _ _ => bind_put (readOp_put ..) fun _ _ => bind_put (writeOp_put ..) fun _ _ => rfl)
    (bind_put (readOp_put ..) fun _ _ => bind_put (readOp_put ..) fun _ _ => bind_put (writeOp_put ..) fun _ _ => rfl)

theorem compareOp_put {f : Word → Word → Word} {fl : Word → Word → Word → Word → Word} {op : ByteOp} :
    compareOp m f fl op ops (h.put s) = (compareOp m f fl op ops s).map h.put :=
  operands2_put fun _ _ _ => Form.check_put
    (bind_put (readOp_put ..) fun _ _ => bind_put (readOp_put ..) fun _ _ => rfl)
    (bind_put (readOp_put ..) fun _ _ => bind_put (readOp_put ..) fun _ _ => rfl)

theorem unaryOp_put {f : Word → Word} {fl : Word → Word → Word → Word} {op : ByteOp} {b : Byte} :
    unaryOp m f fl op b ops (h.put s) = (unaryOp m f fl op b ops s).map h.put :=
  operands1_put fun _ _ => Form.check_put
    (bind_put (readOp_put ..) fun _ _ => bind_put (writeOp_put ..) fun _ _ => rfl)
    (bind_put (readOp_put ..) fun _ _ => bind_put (writeOp_put ..) fun _ _ => rfl)

theorem move_put {dst src : Operand} :
    ((readOp (h.put s) src).bind fun v s1 => writeOp s1 dst v) =
      ((readOp s src).bind fun v s1 => writeOp s1 dst v).map h.put :=
  bind_put (readOp_put ..) fun _ _ => writeOp_put ..

theorem cmov_put {c : Cond} : cmov m c ops (h.put s) = (cmov m c ops s).map h.put := by
  refine operands2_put fun dst src _ => ?_
  dsimp only
  rw [formCmov_put]
  exact Form.check_same_put (ite_put move_put rfl)

theorem scanOp_put {index : Word → Nat} : scanOp m index ops (h.put s) = (scanOp m index ops s).map h.put :=
  operands2_put fun _ _ _ => Form.check_same_put <| bind_put (readOp_put ..) fun _ _ => ite_put rfl (by simp)

/-- The shifts and rotates, with flags that do not depend on what is replaced. -/
theorem shiftOp_put {f : Word → Word → Nat → Word} {fl : State → Word → Nat → Nat → Word → Word}
    (hfl : ∀ u d n c r, fl (h.put u) d n c r = fl u d n c r) :
    shiftOp m f fl ops (h.put s) = (shiftOp m f fl ops s).map h.put := by
  refine operands2_put fun dst count _ => Form.check_same_put <| bind_put (readOp_put ..) fun n s1 => ite_put ?_ ?_
  · rw [mmioOperand_put]
    exact ite_put rfl rfl
  · exact bind_put (readOp_put ..) fun d s2 => bind_put (writeOp_put ..) fun _ s3 => by simp [hfl]

theorem accumulatorOp_put {go : Word → State → Run Unit} (hgo : ∀ v u, go v (h.put u) = (go v u).map h.put) :
    accumulatorOp m ops (h.put s) go = (accumulatorOp m ops s go).map h.put :=
  operands1_put fun _ _ => Form.check_same_put (bind_put (readOp_put ..) hgo)

theorem oneLabel_put {labels : List Text} {effect : State → State} (he : effect (h.put s) = h.put (effect s)) :
    oneLabel labels (h.put s) effect = (oneLabel labels s effect).map h.put := by
  unfold oneLabel
  rw [he]
  split <;> rfl

-- ## The handlers that have a frame of their own

theorem setProduct_put (hm : ∀ mode, h.mode mode = mode) (lo hi : Word) :
    setProduct (h.put s) lo hi = h.put (setProduct s lo hi) := by
  simp [setProduct, hm]

theorem setQuotient_put (hm : ∀ mode, h.mode mode = mode) (q rem : Word) :
    setQuotient (h.put s) q rem = h.put (setQuotient s q rem) := by
  simp [setQuotient, hm]

/-- MOV reads the mode between two memory operands alone (41_data_movement.md R114). -/
theorem handleMov_put (hm : (∃ a b, ops = [.mem a, .mem b]) → ∀ mode, h.mode mode = mode) :
    handleMov ops (h.put s) = (handleMov ops s).map h.put := by
  refine operands2_put fun dst src hops => ?_
  have mode : (bothMem dst src && (h.put s).mode == .strict) = (bothMem dst src && s.mode == .strict) := by
    cases dst <;> cases src <;> try rfl
    rw [put_mode, hm ⟨_, _, hops⟩]
  rw [mode]
  exact Form.check_same_put (ite_put rfl move_put)

theorem handlePush_put : handlePush ops (h.put s) = (handlePush ops s).map h.put :=
  operands1_put fun _ _ => Form.check_same_put <| bind_put (readOp_put ..) fun _ u =>
    memWrite_put h (setReg u .esp (getReg u .esp - 4)) ..

theorem handlePop_put : handlePop ops (h.put s) = (handlePop ops s).map h.put :=
  operands1_put fun _ _ => Form.check_same_put <| bind_put (memRead_put ..) fun _ u =>
    writeOp_put h (setReg u .esp (getReg u .esp + 4)) ..

theorem handleBswap_put : handleBswap ops (h.put s) = (handleBswap ops s).map h.put :=
  operands1_put fun _ _ => Form.check_same_put <| bind_put (readOp_put ..) fun _ _ => writeOp_put ..

theorem handleAnd_put : handleAnd ops (h.put s) = (handleAnd ops s).map h.put := binaryOp_put

theorem handleOr_put : handleOr ops (h.put s) = (handleOr ops s).map h.put := binaryOp_put

theorem handleXor_put : handleXor ops (h.put s) = (handleXor ops s).map h.put := binaryOp_put

theorem handleTest_put : handleTest ops (h.put s) = (handleTest ops s).map h.put := compareOp_put

theorem handleXadd_put : handleXadd ops (h.put s) = (handleXadd ops s).map h.put :=
  operands2_put fun _ _ _ => Form.check_same_put (by simp [xaddRegs])

theorem handleMul_put (hm : ∀ mode, h.mode mode = mode) : handleMul ops (h.put s) = (handleMul ops s).map h.put :=
  accumulatorOp_put fun v u => by simp [setProduct_put hm]

theorem handleImul_put (hm : ∀ mode, h.mode mode = mode) : handleImul ops (h.put s) = (handleImul ops s).map h.put :=
  accumulatorOp_put fun v u => by simp [setProduct_put hm]

theorem handleDiv_put (hm : ∀ mode, h.mode mode = mode) : handleDiv ops (h.put s) = (handleDiv ops s).map h.put :=
  accumulatorOp_put fun v u => ite_put (by simp [setQuotient_put hm]) <| ite_put rfl (by simp [setQuotient_put hm])

theorem handleIdiv_put (hm : ∀ mode, h.mode mode = mode) : handleIdiv ops (h.put s) = (handleIdiv ops s).map h.put :=
  accumulatorOp_put fun v u => ite_put (by simp [setQuotient_put hm]) <| ite_put rfl <| ite_put rfl
    (by simp [setQuotient_put hm])

theorem handleLods_put : handleLods ops (h.put s) = (handleLods ops s).map h.put :=
  operands0_put <| bind_put (memRead_put ..) fun _ _ => rfl

theorem handleStos_put : handleStos ops (h.put s) = (handleStos ops s).map h.put :=
  operands0_put <| bind_put (memWrite_put ..) fun _ _ => rfl

theorem handleMovs_put : handleMovs ops (h.put s) = (handleMovs ops s).map h.put :=
  operands0_put <| bind_put (memRead_put ..) fun _ _ => bind_put (memWrite_put ..) fun _ _ => rfl

theorem handleScas_put : handleScas ops (h.put s) = (handleScas ops s).map h.put :=
  operands0_put <| bind_put (memRead_put ..) fun _ _ => rfl

theorem handleCmps_put : handleCmps ops (h.put s) = (handleCmps ops s).map h.put :=
  operands0_put <| bind_put (memRead_put ..) fun _ _ => bind_put (memRead_put ..) fun _ _ => rfl

theorem service_put (v : Word) : service v (h.put s) = h.put (service v s) := by
  unfold service
  rw [getReg8_put, getReg8_put, getReg8_put, say_put, say_put, halt_put]
  split_ifs <;> rfl

theorem handleInt_put : handleInt ops (h.put s) = (handleInt ops s).map h.put :=
  operands1_put fun _ _ => Form.check_same_put <| bind_put (readOp_put ..) fun v _ => by
    rw [service_put, Run.map_done]

theorem handleRet_put {labels : List Text} : handleRet labels (h.put s) = (handleRet labels s).map h.put := by
  cases labels <;> rfl

theorem handleRol_put (hm : ∀ mode, h.mode mode = mode) : handleRol ops (h.put s) = (handleRol ops s).map h.put :=
  shiftOp_put fun u _ _ c r => by simp [hm]

theorem handleRor_put (hm : ∀ mode, h.mode mode = mode) : handleRor ops (h.put s) = (handleRor ops s).map h.put :=
  shiftOp_put fun u _ _ c r => by simp [hm]

theorem handleRcl_put (hm : ∀ mode, h.mode mode = mode) : handleRcl ops (h.put s) = (handleRcl ops s).map h.put :=
  shiftOp_put fun u _ _ c r => by simp [hm]

theorem handleRcr_put (hm : ∀ mode, h.mode mode = mode) : handleRcr ops (h.put s) = (handleRcr ops s).map h.put :=
  shiftOp_put fun u _ _ c r => by simp [hm]

theorem handleShl_put : handleShl ops (h.put s) = (handleShl ops s).map h.put :=
  shiftOp_put fun _ _ _ _ _ => rfl

theorem handleShr_put : handleShr ops (h.put s) = (handleShr ops s).map h.put :=
  shiftOp_put fun _ _ _ _ _ => rfl

theorem handleSar_put : handleSar ops (h.put s) = (handleSar ops s).map h.put :=
  shiftOp_put fun _ _ _ _ _ => rfl

end

/-- The rotates, the multiplies, the divides and MOV between two memory operands (10_state.md R33). -/
def ReadsMode (i : Instr) : Prop :=
  i.mnemonic ∈ [.rol, .ror, .rcl, .rcr, .mul, .imul, .div, .idiv] ∨ ∃ a b, i = .mov [.mem a, .mem b]

/-- Every handler commutes with a change of what it does not read. -/
theorem handler_put (i : Instr) (h : HostSide) (hm : ReadsMode i → ∀ mode, h.mode mode = mode) (s : State) :
    handler i (h.put s) = (handler i s).map h.put := by
  cases i with
  | mov ops => exact handleMov_put fun ⟨a, b, e⟩ => hm (.inr ⟨a, b, congrArg Instr.mov e⟩)
  | cmovo ops | cmovno ops | cmovb ops | cmovae ops | cmove ops | cmovz ops | cmovne ops | cmovnz ops | cmovbe ops
  | cmova ops | cmovs ops | cmovns ops | cmovl ops | cmovge ops | cmovle ops | cmovg ops => exact cmov_put
  | push ops => exact handlePush_put
  | pop ops => exact handlePop_put
  | bswap ops => exact handleBswap_put
  | xadd ops => exact handleXadd_put
  | add ops | sub ops => exact binaryOp_put
  | and ops => exact handleAnd_put
  | or ops => exact handleOr_put
  | xor ops => exact handleXor_put
  | cmp ops => exact compareOp_put
  | test ops => exact handleTest_put
  | inc ops | dec ops | neg ops => exact unaryOp_put
  | bsf ops | bsr ops => exact scanOp_put
  | shl ops => exact handleShl_put
  | shr ops => exact handleShr_put
  | sar ops => exact handleSar_put
  | rol ops => exact handleRol_put (hm (.inl (by simp [Instr.mnemonic])))
  | ror ops => exact handleRor_put (hm (.inl (by simp [Instr.mnemonic])))
  | rcl ops => exact handleRcl_put (hm (.inl (by simp [Instr.mnemonic])))
  | rcr ops => exact handleRcr_put (hm (.inl (by simp [Instr.mnemonic])))
  | mul ops => exact handleMul_put (hm (.inl (by simp [Instr.mnemonic])))
  | imul ops => exact handleImul_put (hm (.inl (by simp [Instr.mnemonic])))
  | div ops => exact handleDiv_put (hm (.inl (by simp [Instr.mnemonic])))
  | idiv ops => exact handleIdiv_put (hm (.inl (by simp [Instr.mnemonic])))
  | lods ops => exact handleLods_put
  | stos ops => exact handleStos_put
  | movs ops => exact handleMovs_put
  | scas ops => exact handleScas_put
  | cmps ops => exact handleCmps_put
  | int ops => exact handleInt_put
  | lahf ops | sahf ops | int3 ops | iret ops | hlt ops => exact operands0_put rfl
  | ret labels => exact handleRet_put
  | _ labels => exact oneLabel_put rfl

end Sys2Proof.Machine
end

section
/-! # The stepper's part, and what an instruction can do

`exec` is the handler, then the stepper's part of pc and the call stack. What an instruction that answers next did
follows: it completed within its footprint and the stepper redirected it, or it took a fault. -/

namespace Sys2Proof.Machine

/-- The stepper's part took `u` to `t`: pc and the call stack alone, and these only as the mnemonic allows
(48_control_flow.md R181). -/
structure Redirected (i : Instr) (u t : State) : Prop where
  eq : t = setPc (setCs u t.cs) t.pc
  cs : i.mnemonic ≠ .call → i.mnemonic ≠ .ret → t.cs = u.cs
  pc : i.mnemonic ∉ controlMnemonics → t.pc = u.pc + 1

/-- `k` is what the stepper does after the handler of an instruction. -/
structure IsStepperPart (i : Instr) (k : State → Run Unit) : Prop where
  exec_eq : ∀ s, exec i s = finish ((handler i s).bind fun _ => k)
  done : ∀ {u t}, k u = .done () t → Redirected i u t
  raised : ∀ {u t e}, k u = .raised e t → t = u
  put : ∀ (h : HostSide) u, k (h.put u) = (k u).map h.put

/-- The stepper's part of an instruction that falls through. -/
theorem isStepperPart_advance {i : Instr} (hx : ∀ s, exec i s = finish (advance (handler i s))) :
    IsStepperPart i fun u => advance (.done () u) where
  exec_eq := hx
  done h := by
    cases h
    exact ⟨rfl, fun _ _ => rfl, fun _ => rfl⟩
  raised h := by cases h
  put _ _ := rfl

/-- The stepper's part of an instruction with a label. -/
theorem isStepperPart_branch {i : Instr} {m : Mnemonic} {ops : List Text} {go : Nat → State → State}
    (hx : ∀ s, exec i s = finish (branch m ops (handler i s) go)) (hgo : ∀ target u, Redirected i u (go target u))
    (hput : ∀ (h : HostSide) target u, go target (h.put u) = h.put (go target u)) :
    IsStepperPart i fun u => branch m ops (.done () u) go where
  exec_eq := hx
  done {u t} h := by
    unfold branch at h
    simp only [Run.bind_done] at h
    split at h
    · split at h <;> cases h
      exact hgo ..
    · cases h
  raised {u t e} h := by
    unfold branch at h
    simp only [Run.bind_done] at h
    split at h
    · split at h <;> cases h
      rfl
    · cases h
  put h u := by
    simp only [branch, Run.bind_done, put_labels]
    split
    · split
      · rw [hput]; rfl
      · rfl
    · rfl

theorem redirected_goIf {i : Instr} (hi : i.mnemonic ∈ controlMnemonics) (taken : Bool) (target : Nat) (u : State) :
    Redirected i u (goIf taken target u) := ⟨rfl, fun _ _ => rfl, fun hn => absurd hi hn⟩

theorem isStepperPart_ret (ops : List Text) : IsStepperPart (.ret ops) fun u => .done () (returnTo u) where
  exec_eq _ := rfl
  done {u t} h := by
    cases h
    refine ⟨?_, fun _ hn => absurd rfl hn, fun hn => absurd (by simp [Instr.mnemonic, controlMnemonics]) hn⟩
    unfold returnTo
    split <;> rfl
  raised h := by cases h
  put h u := by
    simp only [returnTo, put_cs]
    split <;> rfl

/-- Every instruction has a stepper's part. -/
theorem exists_stepperPart (i : Instr) : ∃ k, IsStepperPart i k := by
  cases i with
  | jmp ops | je ops | jne ops | jg ops | jge ops | jl ops | jle ops | js ops | jns ops | ja ops | jae ops | jb ops
  | jbe ops | loop ops | loope ops | loopne ops | loopz ops | loopnz ops =>
    exact ⟨_, isStepperPart_branch (fun _ => rfl)
      (fun _ _ => redirected_goIf (by simp [Instr.mnemonic, controlMnemonics]) ..) fun _ _ _ => rfl⟩
  | call ops =>
    exact ⟨_, isStepperPart_branch (fun _ => rfl)
      (fun _ _ => ⟨rfl, fun hn => absurd rfl hn, fun hn => absurd (by simp [Instr.mnemonic, controlMnemonics]) hn⟩)
      fun _ _ _ => rfl⟩
  | ret ops => exact ⟨_, isStepperPart_ret ops⟩
  | _ ops => exact ⟨_, isStepperPart_advance fun _ => rfl⟩

-- ## What an instruction that answers next did

theorem Run.Ends.of_done {α : Type} {P : State → Prop} {x : Run α} (hx : x.Ends P) {a : α} {s : State}
    (h : x = .done a s) : P s := by
  subst h
  exact hx

theorem Run.Ends.of_raised {α : Type} {P : State → Prop} {x : Run α} (hx : x.Ends P) {e : EngineFault} {s : State}
    (h : x = .raised e s) : P s := by
  subst h
  exact hx

/-- A composed run raises exactly where a part does. -/
theorem Run.bind_eq_raised {α β : Type} {x : Run α} {k : α → State → Run β} {e : EngineFault} {t : State} :
    x.bind k = .raised e t ↔ x = .raised e t ∨ ∃ a s, x = .done a s ∧ k a s = .raised e t := by
  cases x <;> simp [Run.bind]

/-- An instruction that answers next completed within its footprint, and then the stepper redirected it; or it took a
fault from a state within its footprint. -/
theorem exec_eq_next {i : Instr} {s t : State} (h : exec i s = .next t) :
    (∃ u, handler i s = .done () u ∧ Evolves (footprint i) s u ∧ Redirected i u t) ∨
    ∃ e u, Evolves (footprint i) s u ∧ t = takeFault e u := by
  obtain ⟨k, hk⟩ := exists_stepperPart i
  rw [hk.exec_eq] at h
  rcases finish_eq_next.mp h with h | ⟨e, u, hu, rfl⟩
  · obtain ⟨⟨⟩, u, hu, ht⟩ := Run.bind_eq_done.mp h
    exact .inl ⟨u, hu, (handler_ends i s).of_done hu, hk.done ht⟩
  · refine .inr ⟨e, u, ?_, rfl⟩
    rcases Run.bind_eq_raised.mp hu with hu | ⟨⟨⟩, v, hv, hu⟩
    · exact (handler_ends i s).of_raised hu
    · rw [hk.raised hu]
      exact (handler_ends i s).of_done hv

/-- An instruction that completes: its handler completed within the footprint, and then the stepper redirected it. -/
theorem exec_eq_next_running {i : Instr} {s t : State} (h : exec i s = .next t) (ht : t.faulted = false) :
    ∃ u, handler i s = .done () u ∧ Evolves (footprint i) s u ∧ Redirected i u t := by
  rcases exec_eq_next h with h | ⟨e, u, -, rfl⟩
  · exact h
  · simp at ht

/-- Every instruction commutes with a change of what it does not read. -/
theorem exec_put (i : Instr) (h : HostSide) (hm : ReadsMode i → ∀ mode, h.mode mode = mode) (s : State) :
    exec i (h.put s) = onNext h.put (exec i s) := by
  obtain ⟨k, hk⟩ := exists_stepperPart i
  rw [hk.exec_eq, hk.exec_eq, ← finish_map, bind_put (handler_put i h hm s) fun _ => hk.put h]

-- ## What redirecting keeps

section
variable {i : Instr} {u t : State}

theorem Redirected.regs (h : Redirected i u t) : t.regs = u.regs := by rw [h.eq]; rfl
theorem Redirected.flags (h : Redirected i u t) : t.flags = u.flags := by rw [h.eq]; rfl
theorem Redirected.halted (h : Redirected i u t) : t.halted = u.halted := by rw [h.eq]; rfl
theorem Redirected.faulted (h : Redirected i u t) : t.faulted = u.faulted := by rw [h.eq]; rfl
theorem Redirected.console (h : Redirected i u t) : t.console = u.console := by rw [h.eq]; rfl

end

end Sys2Proof.Machine
end

section
/-! # Registers and the reset state -/

namespace Sys2Proof.Machine

/-- An 8-bit name reads the eight bits of its parent from its offset up (10_state.md R24). -/
theorem getReg8_eq_extract (s : State) (r : Reg8) :
    getReg8 s r = (getReg s (reg8Parent r)).extractLsb' (reg8Offset r) 8 := by
  ext i hi
  simp [getReg8, BitVec.getElem_extractLsb']

/-- Two 8-bit names of one register view bytes that have no bit in common. -/
theorem reg8Offset_apart {r q : Reg8} (h : q ≠ r) (hp : reg8Parent q = reg8Parent r) :
    reg8Offset q + 8 ≤ reg8Offset r ∨ reg8Offset r + 8 ≤ reg8Offset q := by
  revert h hp
  cases r <;> cases q <;> decide

theorem getReg_setReg8_other (s : State) {r : Reg8} (b : Byte) {p : Reg32} (h : p ≠ reg8Parent r) :
    getReg (setReg8 s r b) p = getReg s p := getReg_setReg_other s _ p _ h

/-- Bits of the parent outside the byte that a write to an 8-bit name sets are kept. -/
theorem extract_setReg8 (s : State) (r : Reg8) (b : Byte) (p : Reg32) {start len : Nat}
    (h : p = reg8Parent r → start + len ≤ reg8Offset r ∨ reg8Offset r + 8 ≤ start) :
    (getReg (setReg8 s r b) p).extractLsb' start len = (getReg s p).extractLsb' start len := by
  by_cases hp : p = reg8Parent r
  · subst hp
    refine BitVec.eq_of_getLsbD_eq fun i hi => ?_
    rw [BitVec.getLsbD_extractLsb', BitVec.getLsbD_extractLsb', getLsbD_setReg8 s r b (by have := h rfl; omega)]
  · rw [getReg_setReg8_other s b hp]

/-- Settles O7: each name reads one byte of its parent, and a write to it keeps the bits outside that byte. -/
theorem subRegisterViews : Obligations.SubRegisterViews := by
  unfold Obligations.SubRegisterViews
  refine fun s => ⟨⟨getReg8_eq_extract s .al, getReg8_eq_extract s .ah, getReg8_eq_extract s .cl,
    getReg8_eq_extract s .ch, getReg8_eq_extract s .dl, getReg8_eq_extract s .dh, getReg8_eq_extract s .bl,
    getReg8_eq_extract s .bh⟩, fun r b => ⟨getReg8_setReg8_same s r b, fun q hq => ?_, fun p => ?_, fun p hp => ?_⟩⟩
  · rw [getReg8_eq_extract, getReg8_eq_extract]
    exact extract_setReg8 s r b _ (reg8Offset_apart hq)
  · have offset : reg8Offset r + 8 ≤ 16 := by cases r <;> decide
    exact extract_setReg8 s r b p fun _ => .inr offset
  · exact getReg_setReg8_other s b (by simpa using hp)

/-- Settles O18: nothing is listed in the memories of a fresh state, and its parameters are well formed. -/
theorem resetInvariant : Obligations.ResetInvariant := by
  unfold Obligations.ResetInvariant
  obtain ⟨bankA, bankB, pixels⟩ := fresh_memory_wf Config.initial
  exact ⟨by decide, ⟨bankA, nofun⟩, ⟨bankB, nofun⟩, ⟨pixels, nofun⟩, by decide, rfl, .inl rfl, .nil, .nil⟩

/-- Settles O19: each field is written out in `State.fresh`. -/
theorem newInstanceValues : Obligations.NewInstanceValues := by
  unfold Obligations.NewInstanceValues
  intro c
  have regs : ∀ r, getReg (State.fresh c) r = if r = .esp then c.spReset else 0 := fun r => by cases r <;> rfl
  exact ⟨regs, rfl, rfl, rfl, rfl, rfl, rfl, rfl, fun _ => ⟨rfl, rfl, rfl⟩, rfl, rfl, rfl, rfl, rfl, rfl, rfl⟩

end Sys2Proof.Machine
end

section
/-! # The invariant -/

namespace Sys2Proof.Machine

-- ## A handler keeps it

/-- A write that completes keeps the invariant. -/
theorem memPoke_invariant {s : State} (hs : Invariant s) {a : Word} {n : Nat} (hw : memWriteOk s a n = true)
    (v : Word) : Invariant (memPoke s a n v) := by
  obtain ⟨hcfg, ⟨hawf, hab⟩, hbankB, ⟨hpwf, hpb⟩, hflags, hrun, hkey, hlabels, hbps⟩ := hs
  refine ⟨?_, ⟨memPoke_bankA_wf hawf a n v, ?_⟩, ?_, ⟨memPoke_pixels_wf hpwf a n v, ?_⟩, ?_, ?_, ?_, ?_, ?_⟩
  · rwa [memPoke_cfg]
  · rw [memPoke_cfg]
    exact memPoke_bankA_below hab hw v
  · rwa [memPoke_bankB, memPoke_cfg]
  · rw [memPoke_cfg]
    exact memPoke_pixels_below hpb a n v
  · rwa [memPoke_flags]
  · rwa [memPoke_halted, memPoke_faulted]
  · rwa [memPoke_lastState]
  · rwa [memPoke_labels]
  · rwa [memPoke_bps]

/-- New flags keep the invariant when they change no reserved bit. -/
theorem setFlags_invariant {s : State} (hs : Invariant s) {f : Word} (hf : reservedClear f) :
    Invariant (setFlags s f) := by
  obtain ⟨hcfg, hbankA, hbankB, hpixels, -, hrest⟩ := hs
  exact ⟨hcfg, hbankA, hbankB, hpixels, hf, hrest⟩

theorem popEvent_invariant {s : State} (hs : Invariant s) (event : Byte × Bool) (rest : List (Byte × Bool)) :
    Invariant (popEvent s event rest) := by
  obtain ⟨hcfg, hbankA, hbankB, hpixels, hflags, hrun, -, hrest⟩ := hs
  refine ⟨hcfg, hbankA, hbankB, hpixels, hflags, hrun, ?_, hrest⟩
  rw [popEvent_lastState]
  split
  · exact .inr rfl
  · exact .inl rfl

theorem halt_invariant {s : State} (hs : Invariant s) (hf : s.faulted = false) : Invariant (halt s) := by
  obtain ⟨hcfg, hbankA, hbankB, hpixels, hflags, -, hrest⟩ := hs
  exact ⟨hcfg, hbankA, hbankB, hpixels, hflags, by rw [halt_faulted, hf, Bool.and_false], hrest⟩

theorem Evolves.faulted {fp : Footprint} {s t : State} (h : Evolves fp s t) : t.faulted = s.faulted := by
  rw [h.dataOnly]

/-- What a handler makes of a state that is not faulted keeps the invariant. -/
theorem Evolves.invariant {fp : Footprint} {s t : State} (h : Evolves fp s t) (hs : Invariant s)
    (hf : s.faulted = false) : Invariant t := by
  induction h with
  | refl => exact hs
  | setFlags _ _ hr ih =>
    have ⟨_, _, _, _, hflags, _⟩ := ih
    exact setFlags_invariant ih (hr.reservedClear hflags)
  | popEvent event rest _ ih => exact popEvent_invariant ih event rest
  | memPoke v _ hw ih => exact memPoke_invariant ih hw v
  | halt ht _ ih => exact halt_invariant ih (ht.faulted.trans hf)
  | setReg _ _ _ ih | addDraws _ _ ih | say _ _ _ ih => exact ih

-- ## The stepper and the Faulted state keep it

theorem Redirected.invariant {i : Instr} {u t : State} (h : Redirected i u t) (hu : Invariant u) : Invariant t := by
  rw [h.eq]
  exact hu

/-- The free flags are flags (10_state.md R26). -/
theorem reservedClear_freeFlags (n : Nat) : reservedClear (freeFlags n) := by
  have every : ∀ c z n o : Bool, reservedClear
      ((if c then 0x001 else 0) ||| (if z then 0x040 else 0) ||| (if n then 0x080 else 0) |||
        (if o then 0x800 else 0)) := by decide
  exact every ..

/-- What stands in the state after a fault is free, but keeps the invariant (log entry 6). -/
theorem takeFault_invariant {s : State} (hs : Invariant s) (e : EngineFault) : Invariant (takeFault e s) := by
  obtain ⟨hcfg, ⟨hawf, hab⟩, hbankB, ⟨hpwf, hpb⟩, hflags, -, hkey, hlabels, hbps⟩ := hs
  have flags : reservedClear (takeFault e s).flags := by
    cases he : e.early <;> simp only [takeFault, he]
    · exact reservedClear_freeFlags _
    · exact hflags
  have key : (takeFault e s).lastState = 0 ∨ (takeFault e s).lastState = 1 := by
    cases he : e.early <;> simp only [takeFault, he]
    · show (if _ then (1 : Byte) else 0) = 0 ∨ (if _ then (1 : Byte) else 0) = 1
      split
      · exact .inr rfl
      · exact .inl rfl
    · exact hkey
  refine ⟨?_, ⟨takeFault_bankA_wf hawf e, ?_⟩, ?_, ⟨takeFault_pixels_wf hpwf e, ?_⟩, flags, ?_, key, ?_, ?_⟩
  · rwa [takeFault_cfg]
  · rw [takeFault_cfg]
    exact takeFault_bankA_below hab e
  · rwa [takeFault_bankB, takeFault_cfg]
  · rw [takeFault_cfg]
    exact takeFault_pixels_below hpb e
  · rw [takeFault_halted, Bool.false_and]
  · rwa [takeFault_labels]
  · rwa [takeFault_bps]

/-- Every instruction that runs keeps the invariant, completed or faulted. -/
theorem exec_invariant {i : Instr} {s t : State} (h : exec i s = .next t) (hs : Invariant s)
    (hf : s.faulted = false) : Invariant t := by
  rcases exec_eq_next h with ⟨u, -, hu, ht⟩ | ⟨e, u, hu, rfl⟩
  · exact ht.invariant (hu.invariant hs hf)
  · exact takeFault_invariant (hu.invariant hs hf) e

theorem endOfStep_invariant {s : State} (hs : Invariant s) (hf : s.faulted = false) (line : Int) :
    Invariant (endOfStep line s) := by
  unfold endOfStep
  have halted := halt_invariant hs hf
  split
  · exact halted
  · exact hs

/-- Settles O17: every update within a footprint keeps the invariant, and so do the stepper's part, the Faulted state
and the end of the step. -/
theorem invariantKept : Obligations.InvariantKept := by
  unfold Obligations.InvariantKept
  intro s t hs h
  obtain ⟨-, hf, ⟨-, rfl⟩ | ⟨-, -, rfl⟩ | ⟨-, rec, i, u, -, -, hu, rfl⟩⟩ := stepWith_eq_next h
  · exact hs
  · have halted := halt_invariant hs hf
    exact halted
  · have keeps := exec_invariant hu hs hf
    split
    · exact keeps
    · next hr => exact endOfStep_invariant keeps (eq_false_of_ne_true hr) rec.line

/-- The end of a step halts unless pc is in the program (48_control_flow.md R180). -/
theorem endOfStep_running {line : Int} {s : State} (h : (endOfStep line s).halted = false) :
    (endOfStep line s).pc < (endOfStep line s).prog.length := by
  unfold endOfStep at h ⊢
  split
  · next hp =>
    rw [if_pos hp] at h
    cases h
  · next hp => exact Nat.lt_of_not_le hp

/-- Settles O16: a step that leaves the engine Runnable ran an instruction and did not halt at its end. -/
theorem runnableInProgram : Obligations.RunnableInProgram := by
  unfold Obligations.RunnableInProgram
  intro s t h hf hh
  obtain ⟨-, -, ⟨halted, rfl⟩ | ⟨-, -, rfl⟩ | ⟨-, rec, i, u, -, -, -, rfl⟩⟩ := stepWith_eq_next h
  · rw [setReport_halted, halted] at hh
    cases hh
  · cases hh
  · split at hf
    · next hu =>
      rw [hu] at hf
      cases hf
    · next hu =>
      rw [if_neg hu] at hh ⊢
      exact endOfStep_running hh

end Sys2Proof.Machine
end

section
/-! # What instructions leave alone, and what they do not read -/

namespace Sys2Proof.Machine

/-- Settles O21: a completed instruction stays within its footprint, and the stepper writes no register. -/
theorem registerFrame : Obligations.RegisterFrame := by
  unfold Obligations.RegisterFrame
  intro i s t h hf r hr
  obtain ⟨u, -, hu, ht⟩ := exec_eq_next_running h hf
  exact (getReg_congr ht.regs r).trans (hu.regsBut r hr)

-- ## Control state

/-- The fields that no instruction changes. -/
structure SameHostFields (s t : State) : Prop where
  cfg : t.cfg = s.cfg
  mode : t.mode = s.mode
  running : t.running = s.running
  bankB : t.bankB = s.bankB
  bps : t.bps = s.bps
  prog : t.prog = s.prog
  labels : t.labels = s.labels

section
variable {fp : Footprint} {i : Instr} {s t u : State}

theorem SameHostFields.trans (h : SameHostFields s t) (h' : SameHostFields t u) : SameHostFields s u :=
  ⟨h'.cfg.trans h.cfg, h'.mode.trans h.mode, h'.running.trans h.running, h'.bankB.trans h.bankB, h'.bps.trans h.bps,
    h'.prog.trans h.prog, h'.labels.trans h.labels⟩

theorem Evolves.sameHostFields (h : Evolves fp s t) : SameHostFields s t := by
  rw [h.dataOnly]
  exact ⟨rfl, rfl, rfl, rfl, rfl, rfl, rfl⟩

theorem Evolves.pc (h : Evolves fp s t) : t.pc = s.pc := by rw [h.dataOnly]

theorem Evolves.cs (h : Evolves fp s t) : t.cs = s.cs := by rw [h.dataOnly]

theorem Redirected.sameHostFields (h : Redirected i u t) : SameHostFields u t := by
  rw [h.eq]
  exact ⟨rfl, rfl, rfl, rfl, rfl, rfl, rfl⟩

theorem takeFault_sameHostFields (e : EngineFault) (s : State) : SameHostFields s (takeFault e s) :=
  ⟨takeFault_cfg .., takeFault_mode .., takeFault_running .., takeFault_bankB .., takeFault_bps .., takeFault_prog ..,
    takeFault_labels ..⟩

theorem exec_sameHostFields (h : exec i s = .next t) : SameHostFields s t := by
  rcases exec_eq_next h with ⟨u, -, hu, ht⟩ | ⟨e, u, hu, rfl⟩
  · exact hu.sameHostFields.trans ht.sameHostFields
  · exact hu.sameHostFields.trans (takeFault_sameHostFields e u)

/-- The call stack changes only by CALL and RET (10_state.md R30). -/
theorem exec_cs (h : exec i s = .next t) (hc : i.mnemonic ≠ .call) (hr : i.mnemonic ≠ .ret) : t.cs = s.cs := by
  rcases exec_eq_next h with ⟨u, -, hu, ht⟩ | ⟨e, u, hu, rfl⟩
  · exact (ht.cs hc hr).trans hu.cs
  · exact (takeFault_cs ..).trans hu.cs

/-- The console changes only by INT (10_state.md R37). -/
theorem exec_console (h : exec i s = .next t) (hi : i.mnemonic ≠ .int) : t.console = s.console := by
  have within : (footprint i).console = false := beq_eq_false_iff_ne.mpr hi
  rcases exec_eq_next h with ⟨u, -, hu, ht⟩ | ⟨e, u, hu, rfl⟩
  · exact ht.console.trans (hu.console within)
  · exact (takeFault_console ..).trans (hu.console within)

/-- EXEC runs a handler alone, which changes neither pc nor the call stack (70_reset_and_hazards.md R228). -/
theorem hostExec_pc_cs {rec : Record} (h : hostExec s rec = .next t) : t.pc = s.pc ∧ t.cs = s.cs := by
  unfold hostExec at h
  split at h
  · cases h
  · split at h
    · cases h
    · next i _ =>
      have ends := handler_ends i (setReport s .nothing)
      rcases finish_eq_next.mp h with hd | ⟨e, u, hr, rfl⟩
      · exact ⟨(ends.of_done hd).pc, (ends.of_done hd).cs⟩
      · rw [takeFault_pc, takeFault_cs]
        exact ⟨(ends.of_raised hr).pc, (ends.of_raised hr).cs⟩

end

/-- Settles O25, field by field, from what a footprint, the stepper's part and a fault leave alone. -/
theorem controlFrame : Obligations.ControlFrame := by
  unfold Obligations.ControlFrame
  refine ⟨fun i s t h => ?_, fun s t rec h => hostExec_pc_cs h⟩
  obtain ⟨hcfg, hmode, hrunning, hbankB, hbps, hprog, hlabels⟩ := exec_sameHostFields h
  refine ⟨hcfg, hmode, hrunning, hbankB, hbps, hprog, hlabels, exec_cs h, exec_console h, fun hi hf => ?_⟩
  obtain ⟨u, -, hu, ht⟩ := exec_eq_next_running h hf
  rw [ht.pc hi, hu.pc]

-- ## Halting

/-- The service that halts is that of vector 0x20 (47_interrupt_system.md R172). -/
theorem service_halted {v : Word} {s : State} (hs : s.halted = false) (h : (service v s).halted = true) : v = 0x20 := by
  unfold service at h
  by_contra hv
  rw [if_neg hv] at h
  split_ifs at h <;> simp [hs] at h

/-- INT halts with vector 0x20 alone (47_interrupt_system.md R170, R172). -/
theorem handleInt_halts {ops : List Operand} {s t : State} (h : handleInt ops s = .done () t) (hs : s.halted = false)
    (ht : t.halted = true) : ops = [.imm 0x20] := by
  rcases operands1_eq_done h with ⟨n, rfl, hgo⟩ | ⟨-, rfl⟩
  · cases n with
    | imm v =>
      cases hgo
      rw [show v = 0x20 from service_halted hs ht]
    | _ => cases hgo
  · rw [hs] at ht
    cases ht

/-- An instruction without operands that halts has none: with a wrong count it does nothing (30_encoding.md R88). -/
theorem operands0_halts {m : Mnemonic} {ops : List Operand} {s t : State} {go : Run Unit}
    (h : operands0 m ops s go = .done () t) (hs : s.halted = false) (ht : t.halted = true) : ops = [] := by
  rcases operands0_eq_done h with ⟨rfl, -⟩ | ⟨-, rfl⟩
  · rfl
  · rw [hs] at ht
    cases ht

/-- Settles O26: a footprint may halt for three mnemonics alone, and these halt in one form each. -/
theorem whatHalts : Obligations.WhatHalts := by
  unfold Obligations.WhatHalts
  intro i s t h hf hs ht
  obtain ⟨u, hdone, hu, hredirect⟩ := exec_eq_next_running h hf
  have hhalted : u.halted = true := hredirect.halted.symm.trans ht
  by_cases may : mayHalt i.mnemonic = true
  · cases i with
    | int ops => exact .inr (.inr (congrArg Instr.int (handleInt_halts hdone hs hhalted)))
    | int3 ops => exact .inr (.inl (congrArg Instr.int3 (operands0_halts hdone hs hhalted)))
    | hlt ops => exact .inl (congrArg Instr.hlt (operands0_halts hdone hs hhalted))
    | _ => cases may
  · rw [hu.halted (eq_false_of_ne_true may), hs] at hhalted
    cases hhalted

-- ## What no instruction reads

/-- Settles O31: the change of mode commutes with every instruction that does not read it. -/
theorem modeReaders : Obligations.ModeReaders := by
  unfold Obligations.ModeReaders
  intro i s m hi hmov
  have blind : ¬ReadsMode i := by
    rintro (h | ⟨a, b, h⟩)
    · exact hi h
    · exact hmov a b h
  have commutes : exec i { s with mode := m } = onNext (fun t => { t with mode := m }) (exec i s) :=
    exec_put i { mode := fun _ => m } (fun h => absurd h blind) s
  exact ⟨fun t h => by rw [commutes, h]; rfl, fun r h => by rw [commutes, h]; rfl⟩

/-- A text in front of the console, and nothing else. -/
def HostSide.front (text : Text) : HostSide := { console := text }

/-- Given values for what no instruction reads, and a text in front of the console. -/
def HostSide.given (b : Bool) (lines : List Int) (bank : Memory) (text : Text) (prog : List Record) : HostSide where
  running _ := b
  bps _ := lines
  bankB _ := bank
  console := text
  prog _ := prog

/-- A state is the one with an empty console, with its console put in front. -/
theorem front_put (s : State) : (HostSide.front s.console).put { s with console := [] } = s := by
  simp [HostSide.front, HostSide.put]

theorem given_put (b : Bool) (lines : List Int) (bank : Memory) (text : Text) (prog : List Record) (s : State) :
    (HostSide.given b lines bank text prog).put { s with console := [] } =
      { s with running := b, bps := lines, bankB := bank, console := text, prog := prog } := by
  simp [HostSide.given, HostSide.put]

/-- Settles O32: both states are the one with an empty console, with other values for what no instruction reads; what
the instruction adds to the console is what it makes of the empty one. -/
theorem stateNoInstructionReads : Obligations.StateNoInstructionReads := by
  unfold Obligations.StateNoInstructionReads
  intro i s b lines bank text prog
  have before := exec_put i (.front s.console) (fun _ _ => rfl) { s with console := [] }
  have after := exec_put i (.given b lines bank text prog) (fun _ _ => rfl) { s with console := [] }
  rw [front_put] at before
  rw [given_put] at after
  rw [before, after]
  cases exec i { s with console := [] } with
  | next t =>
    refine ⟨fun r hr => by simp [onNext] at hr, fun u hu => ?_⟩
    obtain rfl : (HostSide.front s.console).put t = u := Host.Outcome.next.inj hu
    exact ⟨t.console, rfl, rfl⟩
  | fault f => exact ⟨fun r hr => by simp [onNext] at hr, fun u hu => by simp [onNext] at hu⟩
  | refused q => exact ⟨fun r hr => hr, fun u hu => by simp [onNext] at hu⟩

end Sys2Proof.Machine
end

section
/-! # The flag frame

The handler of an instruction that writes flags, completed in a well-formed form, obeys the rules of its frame. -/

namespace Sys2Proof.Machine

section
variable {m : Mnemonic} {ops : List Operand} {s t : State} {rules : FlagRules}

theorem length_of_binaryForm (h : binaryForm ops = true) : ops.length = 2 := by
  unfold binaryForm at h
  split at h <;> first | rfl | cases h

theorem length_of_unaryForm (h : unaryForm ops = true) : ops.length = 1 := by
  unfold unaryForm at h
  split at h <;> first | rfl | cases h

theorem length_of_scanForm (h : scanForm ops = true) : ops.length = 2 := by
  unfold scanForm at h
  split at h <;> first | rfl | cases h

theorem length_of_shiftForm (h : shiftForm ops = true) : ops.length = 2 := by
  unfold shiftForm at h
  split at h <;> first | rfl | cases h

theorem length_of_regMemForm (h : regMemForm ops = true) : ops.length = 1 := by
  unfold regMemForm at h
  split at h <;> first | rfl | cases h

theorem binaryOp_flags {f : Word → Word → Word} {fl : Word → Word → Word → Word → Word} {op : ByteOp}
    (hwf : binaryForm ops = true) (hfl : ∀ g d v r, FlagsObey rules g (fl g d v r)) (hb : byteFrame op = rules)
    (h : binaryOp m f fl op ops s = .done () t) : FlagsObey rules s.flags t.flags := by
  rcases binaryOp_eq_done h with ⟨dst, src, rfl, -, -, -, -, rfl⟩ | ⟨dst, src, rfl, -, rfl⟩ | ⟨hn, -⟩
  · simpa [afterReads] using hfl s.flags _ _ _
  · simpa [hb] using setByteFlags_obeys (poke s dst (f (peek s dst) (peek s src))) op ..
  · exact absurd (length_of_binaryForm hwf) hn

theorem compareOp_flags {f : Word → Word → Word} {fl : Word → Word → Word → Word → Word} {op : ByteOp}
    (hwf : binaryForm ops = true) (hfl : ∀ g d v r, FlagsObey rules g (fl g d v r)) (hb : byteFrame op = rules)
    (h : compareOp m f fl op ops s = .done () t) : FlagsObey rules s.flags t.flags := by
  subst hb
  rcases compareOp_eq_done h with ⟨dst, src, rfl, -, -, -, rfl⟩ | ⟨dst, src, rfl, -, rfl⟩ | ⟨hn, -⟩
  · exact hfl ..
  · exact setByteFlags_obeys ..
  · exact absurd (length_of_binaryForm hwf) hn

theorem unaryOp_flags {f : Word → Word} {fl : Word → Word → Word → Word} {op : ByteOp} {b : Byte}
    (hwf : unaryForm ops = true) (hfl : ∀ g d r, FlagsObey rules g (fl g d r)) (hb : byteFrame op = rules)
    (h : unaryOp m f fl op b ops s = .done () t) : FlagsObey rules s.flags t.flags := by
  subst hb
  rcases unaryOp_eq_done h with ⟨dst, rfl, -, -, -, rfl⟩ | ⟨r, rfl, rfl⟩ | ⟨hn, -⟩
  · simpa using hfl s.flags _ _
  · exact setByteFlags_obeys ..
  · exact absurd (length_of_unaryForm hwf) hn

theorem scanOp_flags {index : Word → Nat} (hwf : scanForm ops = true) (h : scanOp m index ops s = .done () t) :
    FlagsObey ⟨.kept, .free, .kept, .kept⟩ s.flags t.flags := by
  rcases scanOp_eq_done h with ⟨r, src, rfl, -, -, rfl⟩ | ⟨hn, -⟩
  · split <;> rw [setFlags_flags] <;> exact putZf_obeys ..
  · exact absurd (length_of_scanForm hwf) hn

/-- What a shift or rotate with its two operands keeps, by its masked count. -/
def CountedFlags (rules : FlagRules) (ops : List Operand) (s t : State) : Prop :=
  ∃ dst count, ops = [dst, count] ∧ FlagsObey (if maskedCount s count = 0 then {} else rules) s.flags t.flags

/-- A shift or rotate keeps the flags with a masked count of 0, and else obeys its rules, by the mode before it. -/
theorem shiftOp_flags {f : Word → Word → Nat → Word} {fl : State → Word → Nat → Nat → Word → Word}
    (hwf : shiftForm ops = true) (hfl : ∀ u d n c r, u.mode = s.mode → FlagsObey rules u.flags (fl u d n c r))
    (h : shiftOp m f fl ops s = .done () t) :
    CountedFlags rules ops s t := by
  rcases shiftOp_eq_done h with ⟨dst, count, rfl, -, hc, -, -, rfl⟩ | ⟨dst, count, rfl, -, hc, -, rfl⟩ | ⟨hn, -⟩
  · refine ⟨dst, count, rfl, ?_⟩
    rw [if_neg hc]
    have obeys := hfl (poke (touch s dst) dst (f s.flags (peek s dst) (maskedCount s count))) (peek s dst)
      (rawCount s count) (maskedCount s count) (f s.flags (peek s dst) (maskedCount s count)) (by simp)
    rwa [poke_flags, touch_flags] at obeys
  · refine ⟨dst, count, rfl, ?_⟩
    rw [if_pos hc]
    exact flagsObey_kept _
  · exact absurd (length_of_shiftForm hwf) hn

theorem accumulatorOp_flags {go : Word → State → Run Unit} (hwf : regMemForm ops = true)
    (hgo : ∀ v u, u.mode = s.mode → go v u = .done () t → FlagsObey rules u.flags t.flags)
    (h : accumulatorOp m ops s go = .done () t) : FlagsObey rules s.flags t.flags := by
  rcases accumulatorOp_eq_done h with ⟨src, rfl, -, -, h⟩ | ⟨hn, -⟩
  · have obeys := hgo _ _ (touch_mode s src) h
    rwa [touch_flags] at obeys
  · exact absurd (length_of_regMemForm hwf) hn

theorem setProduct_obeys (s : State) (lo hi : Word) :
    FlagsObey (productFrame s.mode) s.flags (setProduct s lo hi).flags := flagsMul_obeys ..

theorem setQuotient_obeys (s : State) (q rem : Word) :
    FlagsObey (quotientFrame s.mode) s.flags (setQuotient s q rem).flags := flagsDiv_obeys ..

theorem handleMul_flags (hwf : regMemForm ops = true) (h : handleMul ops s = .done () t) :
    FlagsObey (productFrame s.mode) s.flags t.flags :=
  accumulatorOp_flags hwf (fun v u hm hgo => by cases hgo; rw [← hm]; exact setProduct_obeys ..) h

theorem handleImul_flags (hwf : regMemForm ops = true) (h : handleImul ops s = .done () t) :
    FlagsObey (productFrame s.mode) s.flags t.flags :=
  accumulatorOp_flags hwf (fun v u hm hgo => by cases hgo; rw [← hm]; exact setProduct_obeys ..) h

theorem handleDiv_flags (hwf : regMemForm ops = true) (h : handleDiv ops s = .done () t) :
    FlagsObey (quotientFrame s.mode) s.flags t.flags := by
  refine accumulatorOp_flags hwf (fun v u hm hgo => ?_) h
  rw [← hm]
  split_ifs at hgo <;> cases hgo <;> exact setQuotient_obeys ..

theorem handleIdiv_flags (hwf : regMemForm ops = true) (h : handleIdiv ops s = .done () t) :
    FlagsObey (quotientFrame s.mode) s.flags t.flags := by
  refine accumulatorOp_flags hwf (fun v u hm hgo => ?_) h
  rw [← hm]
  split_ifs at hgo <;> cases hgo <;> exact setQuotient_obeys ..

theorem handleShl_flags (hwf : shiftForm ops = true) (h : handleShl ops s = .done () t) :
    CountedFlags allFree ops s t :=
  shiftOp_flags hwf (fun u d n c r _ => flagsShl_obeys _ u.flags d n c r) h

theorem handleShr_flags (hwf : shiftForm ops = true) (h : handleShr ops s = .done () t) :
    CountedFlags allFree ops s t :=
  shiftOp_flags hwf (fun u d _ c r _ => flagsShr_obeys u.flags d c r) h

theorem handleSar_flags (hwf : shiftForm ops = true) (h : handleSar ops s = .done () t) :
    CountedFlags allFree ops s t :=
  shiftOp_flags hwf (fun u d _ c r _ => flagsSar_obeys u.flags d c r) h

theorem handleRol_flags (hwf : shiftForm ops = true) (h : handleRol ops s = .done () t) :
    CountedFlags (rotateFrame s.mode) ops s t :=
  shiftOp_flags hwf (fun u _ _ c r hm => hm ▸ flagsRotL_obeys u.mode u.flags r _ c) h

theorem handleRor_flags (hwf : shiftForm ops = true) (h : handleRor ops s = .done () t) :
    CountedFlags (rotateFrame s.mode) ops s t :=
  shiftOp_flags hwf (fun u _ _ c r hm => hm ▸ flagsRotR_obeys u.mode u.flags r _ c) h

theorem handleRcl_flags (hwf : shiftForm ops = true) (h : handleRcl ops s = .done () t) :
    CountedFlags (rotateFrame s.mode) ops s t :=
  shiftOp_flags hwf (fun u _ _ c r hm => hm ▸ flagsRotL_obeys u.mode u.flags r _ c) h

theorem handleRcr_flags (hwf : shiftForm ops = true) (h : handleRcr ops s = .done () t) :
    CountedFlags (rotateFrame s.mode) ops s t :=
  shiftOp_flags hwf (fun u _ _ c r hm => hm ▸ flagsRotR_obeys u.mode u.flags r _ c) h

theorem handleSahf_flags (hwf : ops.isEmpty = true) (h : handleSahf ops s = .done () t) :
    FlagsObey ⟨.free, .free, .free, .kept⟩ s.flags t.flags := by
  obtain rfl := List.isEmpty_iff.mp hwf
  cases h
  exact sahfFlags_obeys ..

end

-- ## The flags of every instruction

/-- The frame of an instruction that writes no flag keeps all four. -/
theorem flagFrame_of_not_writesFlags {i : Instr} (hi : writesFlags i.mnemonic = false) (s : State) :
    flagFrame i s = {} := by
  cases i <;> first | rfl | cases hi

/-- The handler of an instruction that writes flags. -/
theorem handler_flags {i : Instr} {s t : State} (hi : writesFlags i.mnemonic = true) (hwf : i.wf = true)
    (h : handler i s = .done () t) : FlagsObey (flagFrame i s) s.flags t.flags := by
  cases i with
  | add ops | sub ops | cmp ops | neg ops | xadd ops | scas ops | cmps ops =>
    exact ((handler_ends _ s).of_done h).sameReserved.obeys_allFree
  | inc ops => exact unaryOp_flags hwf flagsInc_obeys rfl h
  | dec ops => exact unaryOp_flags hwf flagsDec_obeys rfl h
  | and ops => exact binaryOp_flags hwf (fun g _ _ r => flagsLogic_obeys g r) rfl h
  | or ops => exact binaryOp_flags hwf (fun g _ _ r => flagsLogic_obeys g r) rfl h
  | xor ops => exact binaryOp_flags hwf (fun g _ _ r => flagsLogic_obeys g r) rfl h
  | test ops => exact compareOp_flags hwf (fun g _ _ r => flagsLogic_obeys g r) rfl h
  | bsf ops => exact scanOp_flags hwf h
  | bsr ops => exact scanOp_flags hwf h
  | mul ops => exact handleMul_flags hwf h
  | imul ops => exact handleImul_flags hwf h
  | div ops => exact handleDiv_flags hwf h
  | idiv ops => exact handleIdiv_flags hwf h
  | sahf ops => exact handleSahf_flags hwf h
  | shl ops =>
    obtain ⟨dst, count, rfl, obeys⟩ := handleShl_flags hwf h
    exact obeys
  | shr ops =>
    obtain ⟨dst, count, rfl, obeys⟩ := handleShr_flags hwf h
    exact obeys
  | sar ops =>
    obtain ⟨dst, count, rfl, obeys⟩ := handleSar_flags hwf h
    exact obeys
  | rol ops =>
    obtain ⟨dst, count, rfl, obeys⟩ := handleRol_flags hwf h
    exact obeys
  | ror ops =>
    obtain ⟨dst, count, rfl, obeys⟩ := handleRor_flags hwf h
    exact obeys
  | rcl ops =>
    obtain ⟨dst, count, rfl, obeys⟩ := handleRcl_flags hwf h
    exact obeys
  | rcr ops =>
    obtain ⟨dst, count, rfl, obeys⟩ := handleRcr_flags hwf h
    exact obeys
  | _ ops => cases hi

/-- Settles O22: an instruction that writes no flag keeps them, and the others obey the rules of their frame, the
definition `flagFrame`. -/
theorem flagFrame_obeyed : Obligations.FlagFrame := by
  unfold Obligations.FlagFrame
  intro i s t hwf h hf
  obtain ⟨u, hdone, hu, ht⟩ := exec_eq_next_running h hf
  rw [ht.flags]
  by_cases hi : writesFlags i.mnemonic = true
  · exact handler_flags hi hwf hdone
  · have unwritten := eq_false_of_ne_true hi
    rw [flagFrame_of_not_writesFlags unwritten, hu.flags unwritten]
    exact flagsObey_kept _

end Sys2Proof.Machine
end

section
/-! # Ordinary memory

What reads and writes of bank A give, byte by byte (20_memory.md R51 to R56). -/

namespace Sys2Proof.Machine

-- ## Addresses outside the devices

theorem memPeek_of_not_mmio {s : State} {a : Word} (h : isMmio s.cfg a.toNat = false) (n : Nat) :
    memPeek s a n = loadBytes s a.toNat n := by
  simp [memPeek, h]

theorem memTouch_of_not_mmio {s : State} {a : Word} (h : isMmio s.cfg a.toNat = false) : memTouch s a = s := by
  simp [memTouch, h]

/-- A value stored outside the devices stands in bank A byte by byte, and nothing else changes. -/
theorem StoredAt.of_not_mmio {s t : State} {a v : Word} {n : Nat} (h : StoredAt s a n v t)
    (hm : isMmio s.cfg a.toNat = false) :
    (∀ i < n, bankByte t (a.toNat + i) = v.extractLsb' (8 * i) 8) ∧
      (∀ x, x < a.toNat ∨ a.toNat + n ≤ x → bankByte t x = bankByte s x) ∧
      ∀ i, t.pixels.read i = s.pixels.read i := by
  unfold isMmio at hm
  unfold StoredAt at h
  cases hc : classify s.cfg a.toNat <;> simp only [hc] at hm h
  · cases hm
  · cases hm
  · exact h
  · exact h

-- ## Bytes and words (20_memory.md R51)

theorem loadBytes_one (s : State) (a : Nat) : loadBytes s a 1 = (bankByte s a).setWidth 32 := by simp [loadBytes]

/-- Both sides have the same bits, eight of each byte. -/
theorem loadBytes_four (s : State) (a : Nat) :
    loadBytes s a 4 = bankByte s (a + 3) ++ bankByte s (a + 2) ++ bankByte s (a + 1) ++ bankByte s a := by
  refine BitVec.eq_of_getLsbD_eq fun i hi => ?_
  simp only [loadBytes, BitVec.getLsbD_append, BitVec.getLsbD_or, BitVec.getLsbD_setWidth, BitVec.getLsbD_shiftLeft]
  grind

/-- A word is its four bytes side by side. -/
theorem append_extract_bytes (v : Word) :
    v.extractLsb' 24 8 ++ v.extractLsb' 16 8 ++ v.extractLsb' 8 8 ++ v.extractLsb' 0 8 = v := by
  refine BitVec.eq_of_getLsbD_eq fun i hi => ?_
  simp only [BitVec.getLsbD_append, BitVec.getLsbD_extractLsb']
  grind

/-- Settles O8: a write that completes stores its value byte by byte, and a word read is its four bytes side by side. -/
theorem littleEndianMemory : Obligations.LittleEndianMemory := by
  unfold Obligations.LittleEndianMemory
  refine ⟨fun s a v hs hm hw => ?_, fun s a hm => ?_⟩
  · obtain ⟨-, ⟨hbankA, -⟩, -, ⟨hpixels, -⟩, -⟩ := hs
    obtain ⟨bytes, others, -⟩ := (storedAt_memPoke hbankA hpixels hw (v := v)).of_not_mmio hm
    have b0 := bytes 0 (by decide)
    have b1 := bytes 1 (by decide)
    have b2 := bytes 2 (by decide)
    have b3 := bytes 3 (by decide)
    refine ⟨⟨b0, b1, b2, b3⟩, others, ?_⟩
    calc memPeek (memPoke s a 4 v) a 4 = loadBytes (memPoke s a 4 v) a.toNat 4 :=
          memPeek_of_not_mmio (by rwa [memPoke_cfg]) 4
      _ = v.extractLsb' 24 8 ++ v.extractLsb' 16 8 ++ v.extractLsb' 8 8 ++ v.extractLsb' 0 8 := by
          rw [loadBytes_four, b3, b2, b1]; exact congrArg _ b0
      _ = v := append_extract_bytes v
  · rw [memPeek_of_not_mmio hm, memPeek_of_not_mmio hm]
    exact ⟨loadBytes_one s _, loadBytes_four s _⟩

-- ## Out of range (20_memory.md R54 to R56)

theorem bankByte_out_of_range {s : State} {x : Nat} (h : s.cfg.memSize ≤ x) : bankByte s x = 0 :=
  if_neg (Nat.not_lt.mpr h)

/-- An access touches a device when one of its addresses is a device's. -/
theorem touchesMmio_iff {c : Config} {a n : Nat} :
    touchesMmio c a n = true ↔ ∃ i < n, isMmio c (a + i) = true := by
  induction n generalizing a with
  | zero => simp [touchesMmio]
  | succ n ih => rw [touchesMmio, Bool.or_eq_true, ih, Nat.exists_lt_succ_left]; simp [Nat.add_comm, Nat.add_left_comm]

/-- An access is mixed when it starts outside the devices and a later address is a device's (20_memory.md R54). -/
theorem mixedMmio_iff {c : Config} {a n : Nat} :
    mixedMmio c a n = true ↔ isMmio c a = false ∧ ∃ i < n, isMmio c (a + i) = true := by
  rw [mixedMmio, Bool.and_eq_true, Bool.not_eq_true', touchesMmio_iff]

theorem memRead_of_mixed {s : State} {a : Word} {n : Nat} (h : mixedMmio s.cfg a.toNat n = true) :
    memRead s a n = .refused .mixedMmioAccess := by simp [memRead, memReadOk, h]

theorem memWrite_of_mixed {s : State} {a : Word} {n : Nat} (h : mixedMmio s.cfg a.toNat n = true) (v : Word) :
    memWrite s a n v = .refused .mixedMmioAccess := by simp [memWrite, h]

/-- A write outside the devices that reaches past the end of bank A names the first address there (20_memory.md R56). -/
theorem memWrite_out_of_range {s : State} {a : Word} {n : Nat} (hn : 0 < n)
    (hm : ∀ i < n, isMmio s.cfg (a.toNat + i) = false) (hout : s.cfg.memSize < a.toNat + n) (v : Word) :
    memWrite s a n v = .raised (.memoryOutOfRange (max a.toNat s.cfg.memSize)) s := by
  have unmixed : ¬mixedMmio s.cfg a.toNat n = true := fun h => by
    obtain ⟨-, i, hi, hmmio⟩ := mixedMmio_iff.mp h
    rw [hm i hi] at hmmio
    cases hmmio
  have fails : ¬memWriteOk s a n = true := by
    have start : isMmio s.cfg a.toNat = false := hm 0 hn
    simp [memWriteOk, start, hout]
  rw [memWrite, if_neg unmixed, if_neg fails]

/-- Settles O9: reads of bank A touch nothing, and a write fails on its first address that is out of range. -/
theorem outOfRangeAccesses : Obligations.OutOfRangeAccesses := by
  unfold Obligations.OutOfRangeAccesses
  refine ⟨fun s x hx => bankByte_out_of_range hx, fun s t a v n hm h => ?_, fun s a v n hn hm hout => ?_,
    fun s a v n i hm hi hmmio => ?_⟩
  · obtain ⟨-, -, rfl⟩ := memRead_eq_done.mp h
    exact memTouch_of_not_mmio hm
  · exact ⟨_, memWrite_out_of_range hn hm hout v, by omega, by omega, by omega, fun y _ _ => by omega⟩
  · have mixed : mixedMmio s.cfg a.toNat n = true := mixedMmio_iff.mpr ⟨hm, i, hi, hmmio⟩
    exact ⟨memRead_of_mixed mixed, memWrite_of_mixed mixed v⟩

end Sys2Proof.Machine
end

section
/-! # What instructions read and store

`Accesses` is the closure of the reads at some addresses and the writes at one, with updates of neither memory nor
devices between them. Every handler that completes makes the accesses that `loads` and `stores` list for its
instruction: the frames of memory and of the keyboard are read off from that. -/

namespace Sys2Proof.Machine

-- ## Accesses

/-- The parameters, memory and devices are as before; registers, flags and control state may differ. -/
structure SameDevices (s t : State) : Prop where
  cfg : t.cfg = s.cfg
  bankA : t.bankA = s.bankA
  pixels : t.pixels = s.pixels
  kq : t.kq = s.kq
  lastCode : t.lastCode = s.lastCode
  lastState : t.lastState = s.lastState

/-- The states that reads at the addresses of `ls` and writes at `st` make of `s`. -/
inductive Accesses (ls : List (Word × Nat)) (st : Option (Word × Nat)) (s : State) : State → Prop where
  | refl : Accesses ls st s s
  | update {t u : State} : Accesses ls st s t → SameDevices t u → Accesses ls st s u
  | read {t : State} {a : Word} {n : Nat} : Accesses ls st s t → (a, n) ∈ ls → Accesses ls st s (memTouch t a)
  | write {t : State} {a : Word} {n : Nat} (v : Word) : Accesses ls st s t → st = some (a, n) →
      Accesses ls st s (memPoke t a n v)

theorem SameDevices.sameMemory {s t : State} (h : SameDevices s t) : SameMemory s t :=
  .of_eq h.cfg h.bankA h.pixels

-- ## The memory frame

/-- What a store of `n` bytes at `a` may change: the bytes of bank A from there, if it is no device's address, and the
pixel of the address. -/
structure StoreFrame (a : Word) (n : Nat) (s t : State) : Prop where
  bytes : ∀ x, x < a.toNat ∨ a.toNat + n ≤ x → bankByte t x = bankByte s x
  mmio : isMmio s.cfg a.toNat = true → ∀ x, bankByte t x = bankByte s x
  pixels : ∀ p, s.cfg.lcdBase + p ≠ a.toNat → t.pixels.read p = s.pixels.read p

/-- What an optional store may change. -/
def MemoryWithin : Option (Word × Nat) → State → State → Prop
  | none, s, t => SameMemory s t
  | some (a, n), s, t => StoreFrame a n s t

theorem SameMemory.storeFrame {s t : State} (h : SameMemory s t) (a : Word) (n : Nat) : StoreFrame a n s t :=
  ⟨fun x _ => h.bytes x, fun _ => h.bytes, fun p _ => h.pixels p⟩

theorem SameMemory.within {s t : State} (h : SameMemory s t) : ∀ st, MemoryWithin st s t
  | none => h
  | some (a, n) => h.storeFrame a n

theorem StoreFrame.trans {a : Word} {n : Nat} {s t u : State} (hc : t.cfg = s.cfg) (h : StoreFrame a n s t)
    (h' : StoreFrame a n t u) : StoreFrame a n s u where
  bytes x hx := (h'.bytes x hx).trans (h.bytes x hx)
  mmio hm x := (h'.mmio (hc ▸ hm) x).trans (h.mmio hm x)
  pixels p hp := (h'.pixels p (hc ▸ hp)).trans (h.pixels p hp)

theorem MemoryWithin.trans {st : Option (Word × Nat)} {s t u : State} (hc : t.cfg = s.cfg) (h : MemoryWithin st s t)
    (h' : MemoryWithin st t u) : MemoryWithin st s u := by
  cases st with
  | none => exact SameMemory.trans h h'
  | some p => exact StoreFrame.trans hc h h'

theorem lcdBase_le {c : Config} {a : Nat} (h : classify c a = .lcd) : c.lcdBase ≤ a := by
  unfold classify at h
  split_ifs at h with hlcd
  exact hlcd.1

/-- Writing a device changes the pixel of the address alone. -/
theorem devPoke_pixels_other {s : State} {a p : Nat} (b : Byte) (hp : s.cfg.lcdBase + p ≠ a) :
    (devPoke s a b).pixels.read p = s.pixels.read p := by
  unfold devPoke
  split
  · next hlcd =>
    have base := lcdBase_le hlcd
    split
    · exact Memory.read_write_other _ _ (by omega)
    · rfl
  all_goals rfl

/-- A write changes what a store may change. -/
theorem memPoke_storeFrame (s : State) (a : Word) (n : Nat) (v : Word) : StoreFrame a n s (memPoke s a n v) := by
  by_cases hm : isMmio s.cfg a.toNat = true
  · have poke : memPoke s a n v = devPoke s a.toNat (v.setWidth 8) := if_pos hm
    have bank : (memPoke s a n v).bankA = s.bankA := by rw [poke, devPoke_bankA]
    have bytes := bankByte_congr (memPoke_cfg s a n v) bank
    exact ⟨fun x _ => bytes x, fun _ => bytes, fun p hp => by rw [poke]; exact devPoke_pixels_other _ hp⟩
  · have poke : memPoke s a n v = setBankA s (s.bankA.writeBytes a.toNat n v) := if_neg hm
    rw [poke]
    refine ⟨fun x hx => ?_, fun h => absurd h hm, fun _ _ => rfl⟩
    simp only [bankByte, setBankA_cfg, setBankA_bankA, Memory.read_writeBytes_other _ _ _ _ hx]

theorem memTouch_sameMemory (s : State) (a : Word) : SameMemory s (memTouch s a) :=
  .of_eq (memTouch_cfg ..) (memTouch_bankA ..) (memTouch_pixels ..)

section
variable {ls : List (Word × Nat)} {st : Option (Word × Nat)} {s t : State}

theorem Accesses.cfg (h : Accesses ls st s t) : t.cfg = s.cfg := by
  induction h with
  | refl => rfl
  | update _ hu ih => exact hu.cfg.trans ih
  | read _ _ ih => exact (memTouch_cfg ..).trans ih
  | write v _ _ ih => exact (memPoke_cfg ..).trans ih

theorem Accesses.memoryWithin (h : Accesses ls st s t) : MemoryWithin st s t := by
  induction h with
  | refl => exact (SameMemory.refl s).within st
  | update ht hu ih => exact ih.trans ht.cfg (hu.sameMemory.within st)
  | read ht _ ih => exact ih.trans ht.cfg ((memTouch_sameMemory ..).within st)
  | write v ht hst ih =>
    subst hst
    exact ih.trans ht.cfg (memPoke_storeFrame ..)

-- ## The keyboard frame

/-- A read of another address than the keycode register's does nothing (20_memory.md R57). -/
theorem memTouch_of_ne_keycode {a : Word} (h : a.toNat ≠ s.cfg.kbdBase + 1) : memTouch s a = s := by
  unfold memTouch devTouch
  rw [if_neg h]
  split
  · split <;> rfl
  · rfl

theorem Accesses.sameKeyboard (h : Accesses ls st s t) (hls : ∀ p ∈ ls, p.1.toNat ≠ s.cfg.kbdBase + 1) :
    SameKeyboard s t := by
  induction h with
  | refl => exact ⟨rfl, rfl, rfl⟩
  | update _ hu ih => exact ⟨hu.kq.trans ih.kq, hu.lastCode.trans ih.lastCode, hu.lastState.trans ih.lastState⟩
  | read ht ha ih => rwa [memTouch_of_ne_keycode (ht.cfg ▸ hls _ ha)]
  | write v _ _ ih =>
    exact ⟨(memPoke_kq ..).trans ih.kq, (memPoke_lastCode ..).trans ih.lastCode,
      (memPoke_lastState ..).trans ih.lastState⟩

-- ## Reading and writing operands

theorem Accesses.setReg (h : Accesses ls st s t) (r : Reg32) (v : Word) : Accesses ls st s (setReg t r v) :=
  h.update ⟨rfl, rfl, rfl, rfl, rfl, rfl⟩

theorem Accesses.setFlags (h : Accesses ls st s t) (f : Word) : Accesses ls st s (setFlags t f) :=
  h.update ⟨rfl, rfl, rfl, rfl, rfl, rfl⟩

theorem Accesses.setByteFlags (h : Accesses ls st s t) (op : ByteOp) (a b r : Byte) :
    Accesses ls st s (setByteFlags t op a b r) := h.update ⟨rfl, rfl, rfl, rfl, rfl, rfl⟩

theorem ea_congr {u : State} (hr : u.regs = t.regs) (m : MemShape) : ea u m = ea t m := by
  cases m <;> simp only [ea, getReg, hr]

/-- Reading an operand, with the registers as they were, makes the access that is listed for it. -/
theorem Accesses.touch {op : Operand} (h : Accesses ls st s t) (hr : t.regs = s.regs)
    (hls : access s op ⊆ ls) : Accesses ls st s (touch t op) := by
  cases op with
  | mem m => exact h.read (n := 4) (hls (by rw [ea_congr hr, access]; exact List.mem_cons_self))
  | _ => exact h

/-- Writing an operand, with the registers of `u`, makes the store at the address that a memory operand has there. -/
theorem Accesses.poke {u : State} {op : Operand} (h : Accesses ls st s t) (hr : t.regs = u.regs)
    (hst : ∀ m, op = .mem m → st = some (ea u m, 4)) (v : Word) : Accesses ls st s (poke t op v) := by
  cases op with
  | mem m => exact h.write v (by rw [ea_congr hr]; exact hst m rfl)
  | reg32 r => exact h.setReg r v
  | reg8 r => exact h.setReg _ _
  | imm _ | malformed _ | unshown _ => exact h

-- ## The shared frames

variable {m : Mnemonic} {ops : List Operand}

theorem destStore_mem {dst src : Operand} (shape : MemShape) (h : dst = .mem shape) :
    destStore s [dst, src] = some (ea s shape, 4) := by rw [h]; rfl

theorem onlyStore_mem {dst : Operand} (shape : MemShape) (h : dst = .mem shape) :
    onlyStore s [dst] = some (ea s shape, 4) := by rw [h]; rfl

theorem binaryOp_accesses {f : Word → Word → Word} {fl : Word → Word → Word → Word → Word} {op : ByteOp}
    (h : binaryOp m f fl op ops s = .done () t) : Accesses (bothLoads s ops) (destStore s ops) s t := by
  rcases binaryOp_eq_done h with ⟨dst, src, rfl, -, -, -, -, rfl⟩ | ⟨dst, src, rfl, -, rfl⟩ | ⟨-, rfl⟩
  · exact (((Accesses.refl.touch rfl (List.subset_append_left ..)).touch (touch_regs ..)
      (List.subset_append_right ..)).poke (by simp) destStore_mem _).setFlags _
  · exact (Accesses.refl.poke rfl destStore_mem _).setByteFlags ..
  · exact .refl

theorem compareOp_accesses {f : Word → Word → Word} {fl : Word → Word → Word → Word → Word} {op : ByteOp}
    (h : compareOp m f fl op ops s = .done () t) : Accesses (bothLoads s ops) none s t := by
  rcases compareOp_eq_done h with ⟨dst, src, rfl, -, -, -, rfl⟩ | ⟨dst, src, rfl, -, rfl⟩ | ⟨-, rfl⟩
  · exact ((Accesses.refl.touch rfl (List.subset_append_left ..)).touch (touch_regs ..)
      (List.subset_append_right ..)).setFlags _
  · exact Accesses.refl.setByteFlags ..
  · exact .refl

theorem unaryOp_accesses {f : Word → Word} {fl : Word → Word → Word → Word} {op : ByteOp} {b : Byte}
    (h : unaryOp m f fl op b ops s = .done () t) : Accesses (onlyLoad s ops) (onlyStore s ops) s t := by
  rcases unaryOp_eq_done h with ⟨dst, rfl, -, -, -, rfl⟩ | ⟨r, rfl, rfl⟩ | ⟨-, rfl⟩
  · exact ((Accesses.refl.touch rfl (List.Subset.refl _)).poke (touch_regs ..) onlyStore_mem _).setFlags _
  · exact (Accesses.refl.setReg _ _).setByteFlags ..
  · exact .refl

theorem cmov_accesses {c : Cond} (h : cmov m c ops s = .done () t) : Accesses (cmovLoad s c ops) none s t := by
  rcases cmov_eq_done h with ⟨r, src, rfl, -, hc, -, rfl⟩ | rfl
  · exact (Accesses.refl.touch rfl (by simp [cmovLoad, hc])).setReg _ _
  · exact .refl

theorem scanOp_accesses {index : Word → Nat} (h : scanOp m index ops s = .done () t) :
    Accesses (sourceLoad s ops) none s t := by
  rcases scanOp_eq_done h with ⟨r, src, rfl, -, -, rfl⟩ | ⟨-, rfl⟩
  · have source : Accesses (sourceLoad s [.reg32 r, src]) none s (touch s src) :=
      Accesses.refl.touch rfl (List.Subset.refl _)
    split
    · exact source.setFlags _
    · exact (source.setReg _ _).setFlags _
  · exact .refl

/-- A shift or rotate reads and writes its destination, unless the masked count is 0. -/
theorem shiftOp_accesses {f : Word → Word → Nat → Word} {fl : State → Word → Nat → Nat → Word → Word}
    (h : shiftOp m f fl ops s = .done () t) : Accesses (shiftLoad s ops) (shiftStore s ops) s t := by
  rcases shiftOp_eq_done h with ⟨dst, count, rfl, -, hc, -, -, rfl⟩ | ⟨dst, count, -, -, -, -, rfl⟩ | ⟨-, rfl⟩
  · refine ((Accesses.refl.touch rfl ?_).poke (touch_regs ..) (fun shape hdst => ?_) _).setFlags _
    · rw [shiftLoad, if_neg hc]
      exact List.Subset.refl _
    · rw [hdst, shiftStore, if_neg hc]
  · exact .refl
  · exact .refl

theorem accumulatorOp_accesses {go : Word → State → Run Unit} (hgo : ∀ v u, go v u = .done () t → SameDevices u t)
    (h : accumulatorOp m ops s go = .done () t) : Accesses (onlyLoad s ops) none s t := by
  rcases accumulatorOp_eq_done h with ⟨src, rfl, -, -, h⟩ | ⟨-, rfl⟩
  · exact (Accesses.refl.touch rfl (List.Subset.refl _)).update (hgo _ _ h)
  · exact .refl

/-- An instruction without operands: with a wrong count it does nothing. -/
theorem operands0_accesses {go : Run Unit} (hgo : ops = [] → go = .done () t → Accesses ls st s t)
    (h : operands0 m ops s go = .done () t) : Accesses ls st s t := by
  rcases operands0_eq_done h with ⟨hops, h⟩ | ⟨-, rfl⟩
  · exact hgo hops h
  · exact .refl

/-- An instruction with a label alone makes no access. -/
theorem oneLabel_accesses {labels : List Text} {effect : State → State} (he : SameDevices s (effect s))
    (h : oneLabel labels s effect = .done () t) : Accesses ls st s t := by
  obtain ⟨-, rfl⟩ := oneLabel_eq_done h
  exact Accesses.refl.update he

-- ## The handlers that have a frame of their own

/-- A form check with one body for both widths, completed, ran the body in an admitted form, or did nothing. -/
theorem Form.check_same_eq_done {f : Form} {body : Run Unit} (h : f.check s body body = .done () t) :
    ((f = .wide ∨ f = .narrow) ∧ body = .done () t) ∨ t = s := by
  rcases Form.check_eq_done h with ⟨hf, h⟩ | ⟨hf, h⟩ | ⟨-, h⟩
  · exact .inl ⟨.inl hf, h⟩
  · exact .inl ⟨.inr hf, h⟩
  · exact .inr h

/-- An instruction of one operand, with one body for both widths: with a wrong count it does nothing. -/
theorem operands1_accesses {form : Operand → Form} {body : Operand → Run Unit}
    (hbody : ∀ a, ops = [a] → form a = .wide ∨ form a = .narrow → body a = .done () t → Accesses ls st s t)
    (h : (operands1 m ops s fun a => (form a).check s (body a) (body a)) = .done () t) : Accesses ls st s t := by
  rcases operands1_eq_done h with ⟨a, hops, h⟩ | ⟨-, rfl⟩
  · rcases Form.check_same_eq_done h with ⟨hf, h⟩ | rfl
    · exact hbody a hops hf h
    · exact .refl
  · exact .refl

/-- An instruction of two operands, with one body for both widths: with a wrong count it does nothing. -/
theorem operands2_accesses {form : Operand → Operand → Form} {body : Operand → Operand → Run Unit}
    (hbody : ∀ a b, ops = [a, b] → form a b = .wide ∨ form a b = .narrow → body a b = .done () t → Accesses ls st s t)
    (h : (operands2 m ops s fun a b => (form a b).check s (body a b) (body a b)) = .done () t) :
    Accesses ls st s t := by
  rcases operands2_eq_done h with ⟨a, b, hops, h⟩ | ⟨-, rfl⟩
  · rcases Form.check_same_eq_done h with ⟨hf, h⟩ | rfl
    · exact hbody a b hops hf h
    · exact .refl
  · exact .refl

theorem handleMov_accesses (h : handleMov ops s = .done () t) :
    Accesses (sourceLoad s ops) (destStore s ops) s t := by
  refine operands2_accesses (fun dst src hops _ hgo => ?_) h
  subst hops
  split at hgo
  · cases hgo
  · obtain ⟨v, s1, hread, hgo⟩ := Run.bind_eq_done.mp hgo
    obtain ⟨-, rfl, rfl⟩ := readOp_eq_done.mp hread
    obtain ⟨-, rfl⟩ := writeOp_eq_done.mp hgo
    exact (Accesses.refl.touch rfl (List.Subset.refl _)).poke (touch_regs ..) destStore_mem _

theorem handlePush_accesses (h : handlePush ops s = .done () t) :
    Accesses (onlyLoad s ops) (pushStore s ops) s t := by
  refine operands1_accesses (fun src hops _ hgo => ?_) h
  subst hops
  obtain ⟨v, s1, hread, hgo⟩ := Run.bind_eq_done.mp hgo
  obtain ⟨-, rfl, rfl⟩ := readOp_eq_done.mp hread
  obtain ⟨-, rfl⟩ := memWrite_eq_done.mp hgo
  exact ((Accesses.refl.touch rfl (List.Subset.refl _)).setReg _ _).write _ (by rw [getReg_touch]; rfl)

theorem handlePop_accesses (h : handlePop ops s = .done () t) :
    Accesses (stackLoad s ops) (popStore s ops) s t := by
  refine operands1_accesses (fun dst hops _ hgo => ?_) h
  subst hops
  obtain ⟨v, s1, hread, hgo⟩ := Run.bind_eq_done.mp hgo
  obtain ⟨-, rfl, rfl⟩ := memRead_eq_done.mp hread
  obtain ⟨-, rfl⟩ := writeOp_eq_done.mp hgo
  have popped : Accesses (stackLoad s [dst]) (popStore s [dst]) s (memTouch s (getReg s .esp)) :=
    Accesses.refl.read List.mem_cons_self
  refine (popped.setReg .esp _).poke (u := Machine.setReg s .esp (getReg s .esp + 4)) (by simp) (fun m hdst => ?_) _
  rw [hdst]
  rfl

theorem handleBswap_accesses (h : handleBswap ops s = .done () t) : Accesses ls st s t := by
  refine operands1_accesses (fun dst _ hf h => ?_) h
  cases dst with
  | reg32 r =>
    cases h
    exact Accesses.refl.setReg _ _
  | _ => rcases hf with hf | hf <;> cases hf

theorem handleXadd_accesses (h : handleXadd ops s = .done () t) : Accesses ls st s t := by
  refine operands2_accesses (fun dst src _ hf h => ?_) h
  obtain ⟨r, q, rfl, rfl⟩ := formXadd_operands hf
  cases h
  exact ((Accesses.refl.setReg _ _).setReg _ _).setFlags _

theorem service_sameDevices (v : Word) (s : State) : SameDevices s (service v s) := by
  unfold service
  split_ifs <;> exact ⟨rfl, rfl, rfl, rfl, rfl, rfl⟩

theorem handleInt_accesses (h : handleInt ops s = .done () t) : Accesses ls st s t := by
  refine operands1_accesses (fun n _ hf h => ?_) h
  cases n with
  | imm v =>
    cases h
    exact Accesses.refl.update (service_sameDevices v s)
  | _ => rcases hf with hf | hf <;> cases hf

theorem handleLods_accesses (h : handleLods ops s = .done () t) :
    Accesses (bareLoads [(getReg s .esi, 1)] ops) none s t := by
  refine operands0_accesses (fun hops h => ?_) h
  subst hops
  obtain ⟨v, s1, hread, h⟩ := Run.bind_eq_done.mp h
  obtain ⟨-, rfl, rfl⟩ := memRead_eq_done.mp hread
  cases h
  exact ((Accesses.refl.read List.mem_cons_self).setReg _ _).setReg _ _

theorem handleStos_accesses (h : handleStos ops s = .done () t) : Accesses ls (byteStore s ops) s t := by
  refine operands0_accesses (fun hops h => ?_) h
  subst hops
  obtain ⟨⟨⟩, s1, hwrite, h⟩ := Run.bind_eq_done.mp h
  obtain ⟨-, rfl⟩ := memWrite_eq_done.mp hwrite
  cases h
  exact (Accesses.refl.write _ rfl).setReg _ _

theorem handleMovs_accesses (h : handleMovs ops s = .done () t) :
    Accesses (bareLoads [(getReg s .esi, 1)] ops) (byteStore s ops) s t := by
  refine operands0_accesses (fun hops h => ?_) h
  subst hops
  obtain ⟨v, s1, hread, h⟩ := Run.bind_eq_done.mp h
  obtain ⟨-, rfl, rfl⟩ := memRead_eq_done.mp hread
  obtain ⟨⟨⟩, s2, hwrite, h⟩ := Run.bind_eq_done.mp h
  obtain ⟨-, rfl⟩ := memWrite_eq_done.mp hwrite
  cases h
  exact (((Accesses.refl.read List.mem_cons_self).write _ (by rw [getReg_memTouch]; rfl)).setReg _ _).setReg _ _

theorem handleScas_accesses (h : handleScas ops s = .done () t) :
    Accesses (bareLoads [(getReg s .edi, 1)] ops) none s t := by
  refine operands0_accesses (fun hops h => ?_) h
  subst hops
  obtain ⟨v, s1, hread, h⟩ := Run.bind_eq_done.mp h
  obtain ⟨-, rfl, rfl⟩ := memRead_eq_done.mp hread
  cases h
  exact ((Accesses.refl.read List.mem_cons_self).setByteFlags ..).setReg _ _

theorem handleCmps_accesses (h : handleCmps ops s = .done () t) :
    Accesses (bareLoads [(getReg s .esi, 1), (getReg s .edi, 1)] ops) none s t := by
  refine operands0_accesses (fun hops h => ?_) h
  subst hops
  obtain ⟨a, s1, hread, h⟩ := Run.bind_eq_done.mp h
  obtain ⟨-, rfl, rfl⟩ := memRead_eq_done.mp hread
  obtain ⟨b, s2, hread, h⟩ := Run.bind_eq_done.mp h
  obtain ⟨-, rfl, rfl⟩ := memRead_eq_done.mp hread
  cases h
  have second : (getReg (memTouch s (getReg s .esi)) .edi, 1) ∈ [(getReg s .esi, 1), (getReg s .edi, 1)] := by
    rw [getReg_memTouch]
    exact List.mem_cons_of_mem _ List.mem_cons_self
  exact ((((Accesses.refl.read List.mem_cons_self).read second).setByteFlags ..).setReg _ _).setReg _ _

end

-- ## Every instruction

/-- A handler that completes makes the accesses that are listed for its instruction, and no others. -/
theorem handler_accesses {i : Instr} {s t : State} (h : handler i s = .done () t) :
    Accesses (loads i s) (stores i s) s t := by
  cases i with
  | mov ops => exact handleMov_accesses h
  | cmovo ops | cmovno ops | cmovb ops | cmovae ops | cmove ops | cmovz ops | cmovne ops | cmovnz ops | cmovbe ops
  | cmova ops | cmovs ops | cmovns ops | cmovl ops | cmovge ops | cmovle ops | cmovg ops => exact cmov_accesses h
  | push ops => exact handlePush_accesses h
  | pop ops => exact handlePop_accesses h
  | bswap ops => exact handleBswap_accesses h
  | add ops | sub ops => exact binaryOp_accesses h
  | and ops | or ops | xor ops =>
    simp only [handler, handleAnd, handleOr, handleXor] at h
    exact binaryOp_accesses h
  | cmp ops => exact compareOp_accesses h
  | test ops =>
    simp only [handler, handleTest] at h
    exact compareOp_accesses h
  | inc ops | dec ops | neg ops => exact unaryOp_accesses h
  | xadd ops => exact handleXadd_accesses h
  | bsf ops | bsr ops => exact scanOp_accesses h
  | shl ops | shr ops | sar ops | rol ops | ror ops | rcl ops | rcr ops =>
    simp only [handler, handleShl, handleShr, handleSar, handleRol, handleRor, handleRcl, handleRcr] at h
    exact shiftOp_accesses h
  | mul ops | imul ops =>
    simp only [handler, handleMul, handleImul] at h
    refine accumulatorOp_accesses (fun v u hgo => ?_) h
    cases hgo
    exact ⟨rfl, rfl, rfl, rfl, rfl, rfl⟩
  | div ops | idiv ops =>
    simp only [handler, handleDiv, handleIdiv] at h
    refine accumulatorOp_accesses (fun v u hgo => ?_) h
    split_ifs at hgo <;> cases hgo <;> exact ⟨rfl, rfl, rfl, rfl, rfl, rfl⟩
  | lods ops => exact handleLods_accesses h
  | stos ops => exact handleStos_accesses h
  | movs ops => exact handleMovs_accesses h
  | scas ops => exact handleScas_accesses h
  | cmps ops => exact handleCmps_accesses h
  | int ops => exact handleInt_accesses h
  | lahf ops | sahf ops | int3 ops | iret ops | hlt ops =>
    refine operands0_accesses (fun _ h => ?_) h
    cases h
    exact Accesses.refl.update ⟨rfl, rfl, rfl, rfl, rfl, rfl⟩
  | ret labels =>
    cases labels <;> cases h
    exact .refl
  | _ labels => exact oneLabel_accesses ⟨rfl, rfl, rfl, rfl, rfl, rfl⟩ h

theorem Redirected.sameDevices {i : Instr} {u t : State} (h : Redirected i u t) : SameDevices u t := by
  rw [h.eq]
  exact ⟨rfl, rfl, rfl, rfl, rfl, rfl⟩

/-- An instruction that completes makes the accesses that are listed for it, and no others (20_memory.md R58). -/
theorem exec_accesses {i : Instr} {s t : State} (h : exec i s = .next t) (hf : t.faulted = false) :
    Accesses (loads i s) (stores i s) s t := by
  obtain ⟨u, hdone, -, ht⟩ := exec_eq_next_running h hf
  exact (handler_accesses hdone).update ht.sameDevices

/-- Settles O23: reads leave memory as it was, and a write changes what the frame of the one store allows. -/
theorem memoryFrame : Obligations.MemoryFrame := by
  unfold Obligations.MemoryFrame
  intro i s t h hf
  have within := (exec_accesses h hf).memoryWithin
  refine ⟨fun hst => ?_, fun a n hst => ?_⟩
  · rwa [hst] at within
  · rw [hst] at within
    obtain ⟨bytes, mmio, pixels⟩ := within
    exact ⟨bytes, mmio, pixels⟩

/-- Settles O24: a read of another address than the keycode register's does nothing to the keyboard. -/
theorem keyboardFrame : Obligations.KeyboardFrame := by
  unfold Obligations.KeyboardFrame
  exact fun i s t h hf hls => (exec_accesses h hf).sameKeyboard hls

end Sys2Proof.Machine
end

section
/-! # Tokens

What a token's characters are, which names it spells, which number its digits write, and what it resolves to
(30_encoding.md R72 to R76). -/

namespace Sys2Proof

-- ## Characters and white space

theorem isAlphanum_iff {c : Char} : c.isAlphanum = true ↔
    (48 ≤ c.toNat ∧ c.toNat ≤ 57) ∨ (65 ≤ c.toNat ∧ c.toNat ≤ 90) ∨ (97 ≤ c.toNat ∧ c.toNat ≤ 122) := by
  simp [Char.isAlphanum, Char.isAlpha, Char.isUpper, Char.isLower, Char.isDigit, UInt32.le_iff_toNat_le]
  omega

theorem isSpace_eq_true_iff {c : Char} : isSpace c = true ↔ c.toNat = 32 ∨ (9 ≤ c.toNat ∧ c.toNat ≤ 13) := by
  have space : c = ' ' ↔ c.toNat = 32 := ⟨fun h => by rw [h]; rfl, fun h => Char.toNat_inj.mp h⟩
  simp [isSpace, space]

theorem isSpace_of_isAlphanum {c : Char} (h : c.isAlphanum = true) : isSpace c = false := by
  rw [← Bool.not_eq_true, isSpace_eq_true_iff]
  have := isAlphanum_iff.mp h
  omega

/-- Upper case changes small letters alone. -/
theorem toUpper_eq_self {c : Char} (h : c.toNat < 97) : c.toUpper = c := by
  unfold Char.toUpper
  rw [dif_neg]
  rintro ⟨ha, -⟩
  have small : 97 ≤ c.toNat := UInt32.le_iff_toNat_le.mp ha
  omega

/-- White space around a text goes. -/
theorem trim_append {before token after : Text} (hb : ∀ c ∈ before, isSpace c = true)
    (ha : ∀ c ∈ after, isSpace c = true) : trim (before ++ token ++ after) = trim token := by
  unfold trim
  rw [List.append_assoc, List.dropWhile_append_of_pos hb, List.dropWhile_append, List.dropWhile_eq_nil_iff.mpr ha]
  split
  · next h => rw [List.isEmpty_iff.mp h]
  · rw [List.reverse_append, List.dropWhile_append_of_pos (by simpa using ha)]

/-- A text without white space loses nothing. -/
theorem dropWhile_of_noSpace {t : Text} (h : ∀ c ∈ t, isSpace c = false) : t.dropWhile isSpace = t :=
  List.dropWhile_eq_self_iff.mpr fun _ => by simp [h]

theorem trim_of_noSpace {t : Text} (h : ∀ c ∈ t, isSpace c = false) : trim t = t := by
  rw [trim, dropWhile_of_noSpace h, dropWhile_of_noSpace (by simpa using h), List.reverse_reverse]

-- ## Names

/-- A character that has no other spelling stands in a text if it stands in the text in upper case. -/
theorem mem_upper {t : Text} {c : Char} (hc : c ∈ t) (h : c.toNat < 97) : c ∈ upper t :=
  List.mem_map.mpr ⟨c, hc, toUpper_eq_self h⟩

theorem Reg32.upper_name (r : Reg32) : upper r.name = r.name := by cases r <;> rfl
theorem Reg8.upper_name (r : Reg8) : upper r.name = r.name := by cases r <;> rfl

/-- A capital letter. -/
def isCapital (c : Char) : Bool := 65 ≤ c.toNat && c.toNat ≤ 90

theorem letter_of_all {name : Text} (h : name.all isCapital = true) : ∀ c ∈ name, 65 ≤ c.toNat ∧ c.toNat ≤ 90 := by
  simpa [isCapital] using h

theorem Reg32.letter_of_mem_name (r : Reg32) : ∀ c ∈ r.name, 65 ≤ c.toNat ∧ c.toNat ≤ 90 :=
  letter_of_all (by cases r <;> rfl)
theorem Reg8.letter_of_mem_name (r : Reg8) : ∀ c ∈ r.name, 65 ≤ c.toNat ∧ c.toNat ≤ 90 :=
  letter_of_all (by cases r <;> rfl)

/-- The name in upper case selects the register (30_encoding.md R73). -/
theorem reg32Of_eq_some {t : Text} {r : Reg32} : reg32Of t = some r ↔ upper t = r.name := by
  constructor
  · intro h
    have found := List.find?_some h
    exact (beq_iff_eq.mp found).symm
  · intro h
    rw [reg32Of, h]
    cases r <;> rfl

theorem reg8Of_eq_some {t : Text} {r : Reg8} : reg8Of t = some r ↔ upper t = r.name := by
  constructor
  · intro h
    have found := List.find?_some h
    exact (beq_iff_eq.mp found).symm
  · intro h
    rw [reg8Of, h]
    cases r <;> rfl

/-- A text with a character before the letters names no register. -/
theorem reg32Of_eq_none {t : Text} {c : Char} (hc : c ∈ t) (h : c.toNat < 65) : reg32Of t = none := by
  refine Option.eq_none_iff_forall_ne_some.mpr fun r hr => ?_
  have inName : c ∈ r.name := reg32Of_eq_some.mp hr ▸ mem_upper hc (by omega)
  have := r.letter_of_mem_name c inName
  omega

theorem reg8Of_eq_none {t : Text} {c : Char} (hc : c ∈ t) (h : c.toNat < 65) : reg8Of t = none := by
  refine Option.eq_none_iff_forall_ne_some.mpr fun r hr => ?_
  have inName : c ∈ r.name := reg8Of_eq_some.mp hr ▸ mem_upper hc (by omega)
  have := r.letter_of_mem_name c inName
  omega

/-- The two kinds of names have different lengths. -/
theorem reg8Of_reg32_name {t : Text} {r : Reg32} (h : upper t = r.name) : reg8Of t = none := by
  rw [reg8Of, h]
  cases r <;> rfl

-- ## The resolver's first cases

theorem charLiteral_eq_none {t : Text} (h : t.head? ≠ some '\'') : charLiteral t = none := by
  unfold charLiteral
  split
  · next a c b => exact if_neg fun hq => h (congrArg some hq.1)
  · rfl

theorem bracketed_eq_none {t : Text} (h : t.head? ≠ some '[') : bracketed t = none := if_neg fun hb => h hb.1

/-- A character that is no letter, at the head of a text, is in it and in its upper case. -/
theorem head?_ne_of_upper {t name : Text} (h : upper t = name) (hn : ∀ c ∈ name, 65 ≤ c.toNat ∧ c.toNat ≤ 90) {c : Char}
    (hc : c.toNat < 65 ∨ c.toNat = 91) : t.head? ≠ some c := by
  intro hh
  have := hn c (h ▸ mem_upper (List.mem_of_mem_head? hh) (by omega))
  omega

/-- A text that spells a name, in any case, has no white space. -/
theorem noSpace_of_upper {t name : Text} (h : upper t = name) (hn : ∀ c ∈ name, 65 ≤ c.toNat ∧ c.toNat ≤ 90) :
    ∀ c ∈ t, isSpace c = false := by
  intro c hc
  rw [← Bool.not_eq_true, isSpace_eq_true_iff]
  intro hs
  have := hn c (h ▸ mem_upper hc (by omega))
  omega

/-- A register name in any case resolves to the register (30_encoding.md R73). -/
theorem resolve_reg32 {t : Text} {r : Reg32} (h : upper t = r.name) : resolve t = .reg32 r := by
  have head {c : Char} := head?_ne_of_upper (c := c) h r.letter_of_mem_name
  rw [resolve, trim_of_noSpace (noSpace_of_upper h r.letter_of_mem_name), resolveTrimmed,
    charLiteral_eq_none (head (.inl (by decide))), bracketed_eq_none (head (.inr rfl)), reg8Of_reg32_name h,
    reg32Of_eq_some.mpr h]

theorem resolve_reg8 {t : Text} {r : Reg8} (h : upper t = r.name) : resolve t = .reg8 r := by
  have head {c : Char} := head?_ne_of_upper (c := c) h r.letter_of_mem_name
  rw [resolve, trim_of_noSpace (noSpace_of_upper h r.letter_of_mem_name), resolveTrimmed,
    charLiteral_eq_none (head (.inl (by decide))), bracketed_eq_none (head (.inr rfl)), reg8Of_eq_some.mpr h]

/-- A character literal is the code point of its character, whatever that is (30_encoding.md R74). -/
theorem resolve_char (c : Char) : resolve ['\'', c, '\''] = .imm (BitVec.ofNat 32 c.toNat) := by
  have noTrim : trim ['\'', c, '\''] = ['\'', c, '\''] := rfl
  rw [resolve, noTrim]
  rfl

/-- Settles O4: by trimming, the names' spellings, and the first case of the resolver. -/
theorem tokensOfNamesAndCharacters : Obligations.TokensOfNamesAndCharacters := by
  unfold Obligations.TokensOfNamesAndCharacters
  exact ⟨fun _ _ _ hb ha => congrArg resolveTrimmed (trim_append hb ha), fun _ _ => resolve_reg32,
    fun _ _ => resolve_reg8, resolve_char⟩

-- ## Numbers

section
variable {base : Nat} {digit : Char → Option Nat}

theorem digitsFrom_append (acc : Nat) (xs ys : Text) :
    digitsFrom base digit acc (xs ++ ys) = (digitsFrom base digit acc xs).bind fun n => digitsFrom base digit n ys := by
  induction xs generalizing acc with
  | nil => rfl
  | cons c cs ih =>
    rw [List.cons_append, digitsFrom, digitsFrom]
    cases digit c with
    | none => rfl
    | some d => exact ih _

/-- A text that writes a number has digits alone. -/
theorem isSome_of_digitsFrom {acc n : Nat} {t : Text} (h : digitsFrom base digit acc t = some n) :
    ∀ c ∈ t, (digit c).isSome = true := by
  induction t generalizing acc with
  | nil => simp
  | cons c cs ih =>
    rw [digitsFrom] at h
    cases hd : digit c with
    | none => simp [hd] at h
    | some d =>
      simp only [hd] at h
      exact List.forall_mem_cons.mpr ⟨by rw [hd]; rfl, ih h⟩

/-- The digits of a number in a base write it. -/
theorem digitsFrom_toDigits (hb : 1 < base) (hd : ∀ k < base, digit (Nat.digitChar k) = some k) (n : Nat) :
    digitsFrom base digit 0 (Nat.toDigits base n) = some n := by
  induction n using Nat.strong_induction_on with
  | _ n ih =>
    rcases Nat.lt_or_ge n base with hn | hn
    · simp [Nat.toDigits_of_lt_base hn, digitsFrom, hd n hn]
    · have smaller := Nat.div_lt_self (Nat.lt_of_lt_of_le (Nat.zero_lt_of_lt hb) hn) hb
      have digitRead := hd _ (Nat.mod_lt n (Nat.zero_lt_of_lt hb))
      rw [Nat.toDigits_of_base_le hb hn, digitsFrom_append, ih _ smaller]
      simp [digitsFrom, digitRead, Nat.div_add_mod']

/-- One or more digits are needed, and a number has one. -/
theorem digits_toDigits (hb : 1 < base) (hd : ∀ k < base, digit (Nat.digitChar k) = some k) (n : Nat) :
    digits base digit (Nat.toDigits base n) = some n := by
  have written := digitsFrom_toDigits hb hd n
  cases ht : Nat.toDigits base n with
  | nil =>
    rcases Nat.lt_or_ge n base with hn | hn
    · simp [Nat.toDigits_of_lt_base hn] at ht
    · simp [Nat.toDigits_of_base_le hb hn] at ht
  | cons c cs => rwa [ht] at written

theorem isSome_of_digits {n : Nat} {t : Text} (h : digits base digit t = some n) :
    ∀ c ∈ t, (digit c).isSome = true := by
  cases t with
  | nil => simp
  | cons c cs => exact isSome_of_digitsFrom h

end

theorem isSome_decDigit {c : Char} (h : (decDigit c).isSome = true) : 48 ≤ c.toNat ∧ c.toNat ≤ 57 := by
  unfold decDigit at h
  split at h
  · assumption
  · simp at h

theorem isAlphanum_of_decDigit {c : Char} (h : (decDigit c).isSome = true) : c.isAlphanum = true :=
  isAlphanum_iff.mpr (.inl (isSome_decDigit h))

theorem isAlphanum_of_hexDigit {c : Char} (h : (hexDigit c).isSome = true) : c.isAlphanum = true := by
  rw [isAlphanum_iff]
  unfold hexDigit at h
  split_ifs at h
  · omega
  · omega
  · omega
  · simp at h

theorem isAlphanum_of_binDigit {c : Char} (h : (binDigit c).isSome = true) : c.isAlphanum = true := by
  rw [isAlphanum_iff]
  unfold binDigit at h
  split_ifs at h
  · omega
  · omega
  · simp at h

/-- The operand a literal makes of its token. -/
def Literal.operand (tok : Text) : Literal → Operand
  | .value v => .imm v
  | .malformed => .malformed tok
  | .unshown => .unshown tok

/-- A token that starts below the letters, without white space and with no quote, is an immediate. -/
theorem resolve_immediate {c : Char} {cs : Text} (hc : c.toNat < 65) (hq : c ≠ '\'')
    (hs : ∀ x ∈ c :: cs, isSpace x = false) : resolve (c :: cs) = (parseImm (c :: cs)).operand (c :: cs) := by
  have noBracket : c ≠ '[' := by
    rintro rfl
    exact absurd hc (by decide)
  rw [resolve, trim_of_noSpace hs, resolveTrimmed, charLiteral_eq_none (by simpa using hq),
    bracketed_eq_none (by simpa using noBracket), reg8Of_eq_none List.mem_cons_self hc,
    reg32Of_eq_none List.mem_cons_self hc]
  cases parseImm (c :: cs) <;> rfl

/-- A digit starts an immediate. -/
theorem resolve_number {c : Char} {cs : Text} (hc : (decDigit c).isSome = true)
    (hs : ∀ x ∈ cs, isSpace x = false) : resolve (c :: cs) = (parseUnsigned (c :: cs)).operand (c :: cs) := by
  have range := isSome_decDigit hc
  have ne {x : Char} (hx : x.toNat < 48) : c ≠ x := by
    rintro rfl
    omega
  have noSign : (c :: cs).head? ≠ some '-' := by simpa using ne (x := '-') (by decide)
  rw [resolve_immediate (by omega) (ne (by decide))
    (List.forall_mem_cons.mpr ⟨isSpace_of_isAlphanum (isAlphanum_of_decDigit hc), hs⟩), parseImm, if_neg noSign]

/-- Decimal digits are no prefixed literal (30_encoding.md R75). -/
theorem parseUnsigned_decimal {t : Text} {n : Nat} (h : digits 10 decDigit t = some n) :
    parseUnsigned t = .value (BitVec.ofNat 32 n) := by
  have noPrefix {c : Char} (hc : (decDigit c).isSome = false) : t.take 2 ≠ ['0', c] := by
    intro ht
    have isDigit := isSome_of_digits h c (List.mem_of_mem_take (i := 2) (by simp [ht]))
    rw [hc] at isDigit
    cases isDigit
  rw [parseUnsigned, if_neg (noPrefix rfl), if_neg (noPrefix rfl), if_neg (not_or.mpr ⟨noPrefix rfl, noPrefix rfl⟩), h,
    literalOf]

theorem parseUnsigned_hex (t : Text) : parseUnsigned ('0' :: 'x' :: t) = literalOf (digits 16 hexDigit t) := rfl

theorem parseUnsigned_binary (t : Text) : parseUnsigned ('0' :: 'b' :: t) = literalOf (digits 2 binDigit t) := rfl

theorem resolve_decimal {t : Text} {n : Nat} (h : digits 10 decDigit t = some n) :
    resolve t = .imm (BitVec.ofNat 32 n) := by
  have isDigit := isSome_of_digits h
  cases t with
  | nil => cases h
  | cons c cs =>
    obtain ⟨hc, hcs⟩ := List.forall_mem_cons.mp isDigit
    rw [resolve_number hc fun x hx => isSpace_of_isAlphanum (isAlphanum_of_decDigit (hcs x hx)),
      parseUnsigned_decimal h, Literal.operand]

theorem resolve_signed {t : Text} {n : Nat} (h : digits 10 decDigit t = some n) :
    resolve ('-' :: t) = .imm (BitVec.ofInt 32 (-n)) := by
  have noSpace : ∀ x ∈ t, isSpace x = false := fun x hx =>
    isSpace_of_isAlphanum (isAlphanum_of_decDigit (isSome_of_digits h x hx))
  rw [resolve_immediate (by decide) (by decide) (List.forall_mem_cons.mpr ⟨rfl, noSpace⟩), parseImm, List.head?_cons,
    if_pos rfl, List.tail_cons, h, Literal.operand, BitVec.ofInt_neg, BitVec.ofInt_natCast]

theorem resolve_hex {t : Text} {n : Nat} (h : digits 16 hexDigit t = some n) :
    resolve ('0' :: 'x' :: t) = .imm (BitVec.ofNat 32 n) := by
  have noSpace : ∀ x ∈ t, isSpace x = false := fun x hx =>
    isSpace_of_isAlphanum (isAlphanum_of_hexDigit (isSome_of_digits h x hx))
  rw [resolve_number rfl (List.forall_mem_cons.mpr ⟨rfl, noSpace⟩), parseUnsigned_hex, h, literalOf, Literal.operand]

theorem resolve_binary {t : Text} {n : Nat} (h : digits 2 binDigit t = some n) :
    resolve ('0' :: 'b' :: t) = .imm (BitVec.ofNat 32 n) := by
  have noSpace : ∀ x ∈ t, isSpace x = false := fun x hx =>
    isSpace_of_isAlphanum (isAlphanum_of_binDigit (isSome_of_digits h x hx))
  rw [resolve_number rfl (List.forall_mem_cons.mpr ⟨rfl, noSpace⟩), parseUnsigned_binary, h, literalOf, Literal.operand]

/-- The two prefixes in upper case are refused, whatever follows (30_encoding.md R75). -/
theorem resolve_upperPrefix {x : Char} (hx : x = 'X' ∨ x = 'B') {rest : Text} (h : ∀ c ∈ rest, isSpace c = false) :
    resolve ('0' :: x :: rest) = .unshown ('0' :: x :: rest) := by
  rcases hx with rfl | rfl
  all_goals
    rw [resolve_number rfl (List.forall_mem_cons.mpr ⟨rfl, h⟩)]
    rfl

/-- Settles O5: the digits of a number in each base write it, and its token is an immediate. -/
theorem immediateTokens : Obligations.ImmediateTokens := by
  unfold Obligations.ImmediateTokens
  refine ⟨fun n => ?_, fun rest h => ⟨resolve_upperPrefix (.inl rfl) h, resolve_upperPrefix (.inr rfl) h⟩⟩
  have decimal : digits 10 decDigit (Nat.toDigits 10 n) = some n := digits_toDigits (by decide) (by decide) n
  exact ⟨resolve_decimal decimal, resolve_signed decimal, resolve_hex (digits_toDigits (by decide) (by decide) n),
    resolve_binary (digits_toDigits (by decide) (by decide) n)⟩

end Sys2Proof
end

section
/-! # Memory tokens

What stands between brackets, and the operand it makes (30_encoding.md R76). -/

namespace Sys2Proof

-- ## Signs

/-- A text without a sign is not split. -/
theorem splitSign_none {t : Text} (h : ∀ c ∈ t, c.isAlphanum = true) : splitSign t = none := by
  induction t with
  | nil => rfl
  | cons c cs ih =>
    obtain ⟨hc, hcs⟩ := List.forall_mem_cons.mp h
    have plus : c ≠ '+' := by rintro rfl; cases hc
    have minus : c ≠ '-' := by rintro rfl; cases hc
    rw [splitSign, if_neg plus, if_neg minus, ih hcs]

/-- A text is split at its first sign. -/
theorem splitSign_append {before : Text} (h : ∀ c ∈ before, c.isAlphanum = true) {sign : Char} (after : Text)
    (hs : sign = '+' ∨ sign = '-') : splitSign (before ++ sign :: after) = some (before, sign == '+', after) := by
  induction before with
  | nil => rcases hs with rfl | rfl <;> rfl
  | cons c cs ih =>
    obtain ⟨hc, hcs⟩ := List.forall_mem_cons.mp h
    have plus : c ≠ '+' := by rintro rfl; cases hc
    have minus : c ≠ '-' := by rintro rfl; cases hc
    rw [List.cons_append, splitSign, if_neg plus, if_neg minus, ih hcs]

-- ## Brackets

/-- A token in brackets is the memory operand of what stands between them. -/
theorem resolve_bracket {inner : Text} (h : ∀ c ∈ inner, isSpace c = false) :
    resolve ('[' :: (inner ++ [']'])) = parseBracket ('[' :: (inner ++ [']'])) inner := by
  have noSpace : ∀ c ∈ '[' :: (inner ++ [']']), isSpace c = false := by
    simpa [or_imp, forall_and] using ⟨(rfl : isSpace '[' = false), h, (rfl : isSpace ']' = false)⟩
  have last : ('[' :: (inner ++ [']'])).getLast? = some ']' := List.getLast?_concat (l := '[' :: inner)
  have between : bracketed ('[' :: (inner ++ [']'])) = some inner := by
    rw [bracketed, if_pos ⟨rfl, last⟩, List.tail_cons, List.dropLast_concat, List.filter_eq_self.mpr (by simpa using h)]
  rw [resolve, trim_of_noSpace noSpace, resolveTrimmed, charLiteral_eq_none (by simp), between]

theorem Reg32.isAlphanum_name (r : Reg32) : ∀ c ∈ r.name, c.isAlphanum = true := fun c hc =>
  isAlphanum_iff.mpr (.inr (.inl (r.letter_of_mem_name c hc)))

theorem Reg8.isAlphanum_name (r : Reg8) : ∀ c ∈ r.name, c.isAlphanum = true := fun c hc =>
  isAlphanum_iff.mpr (.inr (.inl (r.letter_of_mem_name c hc)))

theorem reg32Of_name (r : Reg32) : reg32Of r.name = some r := reg32Of_eq_some.mpr r.upper_name

section
variable {tok number : Text} {n : Word}

/-- `[REG]`. -/
theorem parseBracket_reg (tok : Text) (r : Reg32) : parseBracket tok r.name = .mem (.reg r) := by
  rw [parseBracket, splitSign_none r.isAlphanum_name, reg32Of_name]

/-- `[REG+REG2]`. -/
theorem parseBracket_regReg (tok : Text) (r r2 : Reg32) :
    parseBracket tok (r.name ++ '+' :: r2.name) = .mem (.regReg r r2) := by
  rw [parseBracket, splitSign_append r.isAlphanum_name _ (.inl rfl)]
  simp [reg32Of_name]

/-- `[REG+n]`. -/
theorem parseBracket_plus (tok : Text) (r : Reg32) (hr : reg32Of number = none) (hn : parseUnsigned number = .value n) :
    parseBracket tok (r.name ++ '+' :: number) = .mem (.regPlus r n) := by
  rw [parseBracket, splitSign_append r.isAlphanum_name _ (.inl rfl)]
  simp [reg32Of_name, hr, hn, memOf]

/-- `[REG-n]`. -/
theorem parseBracket_minus (tok : Text) (r : Reg32) (hn : parseUnsigned number = .value n) :
    parseBracket tok (r.name ++ '-' :: number) = .mem (.regMinus r n) := by
  rw [parseBracket, splitSign_append r.isAlphanum_name _ (.inr rfl)]
  simp [reg32Of_name, hn, memOf]

/-- `[n]`. -/
theorem parseBracket_abs (tok : Text) (hc : ∀ c ∈ number, c.isAlphanum = true) (hr : reg32Of number = none)
    (hn : parseUnsigned number = .value n) : parseBracket tok number = .mem (.abs n) := by
  rw [parseBracket, splitSign_none hc, hr, hn, memOf]

end

end Sys2Proof

namespace Sys2Proof.Machine

/-- The address of `[REG-n]` is the difference modulo 2^32. -/
theorem toNat_sub_word (a b : Word) : ((a - b).toNat : Int) = (a.toNat - b.toNat : Int) % 2 ^ 32 := by
  have := a.isLt
  have := b.isLt
  rw [BitVec.toNat_sub]
  omega

/-- An 8-bit name in brackets is neither a register of a memory operand nor a number. -/
theorem resolve_bracket_reg8 (r : Reg8) :
    resolve ('[' :: (r.name ++ [']'])) = .malformed ('[' :: (r.name ++ [']'])) := by
  rw [resolve_bracket fun c hc => isSpace_of_isAlphanum (r.isAlphanum_name c hc), parseBracket,
    splitSign_none r.isAlphanum_name]
  cases r <;> rfl

/-- Settles O6: each shape's sum or difference of words, and the parse error of an 8-bit name. -/
theorem effectiveAddresses : Obligations.EffectiveAddresses := by
  unfold Obligations.EffectiveAddresses
  exact ⟨fun s r r2 n => ⟨rfl, BitVec.toNat_add _ _, toNat_sub_word _ _, BitVec.toNat_add _ _, rfl⟩,
    resolve_bracket_reg8⟩

end Sys2Proof.Machine
end

section
/-! # Encoding and decoding

The encoder's tokens resolve to the operands they were made of, and the mnemonic's name selects the instruction, so
decoding undoes encoding (30_encoding.md R69 to R80). -/

namespace Sys2Proof

-- ## The encoder's tokens

theorem hexDigit_hexChar : ∀ k < 16, hexDigit (hexChar k) = some k := by decide

/-- The hexadecimal digits of a number write its lowest digits. -/
theorem digitsFrom_hexDigits (acc n v : Nat) :
    digitsFrom 16 hexDigit acc (hexDigits n v) = some (acc * 16 ^ n + v % 16 ^ n) := by
  induction n generalizing acc with
  | zero => simp [hexDigits, digitsFrom, Nat.mod_one]
  | succ n ih =>
    have top := hexDigit_hexChar (v / 16 ^ n % 16) (Nat.mod_lt _ (by decide))
    simp only [hexDigits, digitsFrom, top, ih, Nat.mod_pow_succ]
    congr 1
    ring

/-- The eight digits of a word write it. -/
theorem digits_wordToken (v : Word) : digits 16 hexDigit (hexDigits 8 v.toNat) = some v.toNat := by
  have written := digitsFrom_hexDigits 0 8 v.toNat
  rw [Nat.zero_mul, Nat.zero_add, Nat.mod_eq_of_lt (by exact v.isLt)] at written
  exact written

theorem parseUnsigned_wordToken (v : Word) : parseUnsigned (wordToken v) = .value v := by
  rw [wordToken, parseUnsigned_hex, digits_wordToken, literalOf, BitVec.ofNat_toNat, BitVec.setWidth_eq]

theorem isAlphanum_wordToken (v : Word) : ∀ c ∈ wordToken v, c.isAlphanum = true :=
  List.forall_mem_cons.mpr ⟨rfl, List.forall_mem_cons.mpr
    ⟨rfl, fun c hc => isAlphanum_of_hexDigit (isSome_of_digits (digits_wordToken v) c hc)⟩⟩

/-- A number is no register's name, since it starts with a digit. -/
theorem reg32Of_wordToken (v : Word) : reg32Of (wordToken v) = none :=
  reg32Of_eq_none (c := '0') List.mem_cons_self (by decide)

theorem resolve_wordToken (v : Word) : resolve (wordToken v) = .imm v := by
  rw [wordToken, resolve_hex (digits_wordToken v), BitVec.ofNat_toNat, BitVec.setWidth_eq]

/-- What stands between the encoder's brackets has no white space. -/
theorem MemShape.noSpace_inner (m : MemShape) : ∀ c ∈ m.inner, isSpace c = false := by
  have name (r : Reg32) : ∀ c ∈ r.name, isSpace c = false := fun c hc => isSpace_of_isAlphanum (r.isAlphanum_name c hc)
  have number (v : Word) : ∀ c ∈ wordToken v, isSpace c = false := fun c hc =>
    isSpace_of_isAlphanum (isAlphanum_wordToken v c hc)
  cases m with
  | reg r => exact name r
  | regPlus r n => exact List.forall_mem_append.mpr ⟨name r, List.forall_mem_cons.mpr ⟨rfl, number n⟩⟩
  | regMinus r n => exact List.forall_mem_append.mpr ⟨name r, List.forall_mem_cons.mpr ⟨rfl, number n⟩⟩
  | regReg r r2 => exact List.forall_mem_append.mpr ⟨name r, List.forall_mem_cons.mpr ⟨rfl, name r2⟩⟩
  | abs n => exact number n

/-- The encoder's text of each memory shape is read as that shape. -/
theorem parseBracket_inner (tok : Text) (m : MemShape) : parseBracket tok m.inner = .mem m := by
  cases m with
  | reg r => exact parseBracket_reg tok r
  | regPlus r n => exact parseBracket_plus tok r (reg32Of_wordToken n) (parseUnsigned_wordToken n)
  | regMinus r n => exact parseBracket_minus tok r (parseUnsigned_wordToken n)
  | regReg r r2 => exact parseBracket_regReg tok r r2
  | abs n => exact parseBracket_abs tok (isAlphanum_wordToken n) (reg32Of_wordToken n) (parseUnsigned_wordToken n)

/-- The token of a resolved operand resolves to it. -/
theorem resolve_operandToken {op : Operand} (h : op.resolved = true) : resolve (operandToken op) = op := by
  cases op with
  | reg32 r => exact resolve_reg32 r.upper_name
  | reg8 r => exact resolve_reg8 r.upper_name
  | imm v => exact resolve_wordToken v
  | mem m => exact (resolve_bracket m.noSpace_inner).trans (parseBracket_inner _ m)
  | malformed tok | unshown tok => cases h

theorem map_resolve_tokens {ops : List Operand} (h : ops.all Operand.resolved = true) :
    (ops.map operandToken).map resolve = ops := by
  rw [List.map_map]
  exact (List.map_congr_left fun op hop => resolve_operandToken (List.all_eq_true.mp h op hop)).trans (List.map_id ops)

theorem map_trim_labels {labels : List Text} (h : labels.all labelTrimmed = true) : labels.map trim = labels :=
  (List.map_congr_left fun name hn => beq_iff_eq.mp (List.all_eq_true.mp h name hn)).trans (List.map_id labels)

-- ## Mnemonics and records

/-- The name selects the mnemonic, and nothing else does (30_encoding.md R70). -/
theorem mnemonicOf_eq_some {t : Text} {m : Mnemonic} : mnemonicOf t = some m ↔ t = m.name := by
  have name_of {u : Text} {k : Mnemonic} (h : mnemonicOf u = some k) : u = k.name := by
    have found := List.find?_some h
    exact (beq_iff_eq.mp found).symm
  refine ⟨name_of, ?_⟩
  rintro rfl
  have selected := Laws.SameMnemonic.name_selects m
  rwa [name_of selected] at selected

@[simp] theorem Mnemonic.mnemonic_build (m : Mnemonic) (tokens : List Text) : (m.build tokens).mnemonic = m := by
  cases m <;> rfl

/-- What a record decodes to: what its mnemonic makes of its tokens. -/
theorem decode_eq_ok {rec : Record} {i : Instr} :
    decode rec = .ok i ↔ ∃ m : Mnemonic, upper rec.mnemonic = m.name ∧ i = m.build rec.operands := by
  simp only [← mnemonicOf_eq_some, decode]
  cases mnemonicOf (upper rec.mnemonic) <;> simp [eq_comm]

/-- A record with any other mnemonic decodes to none. -/
theorem decode_eq_error {rec : Record} (h : ∀ m : Mnemonic, upper rec.mnemonic ≠ m.name) :
    decode rec = .error (.mnemonicNotAdmitted rec.mnemonic) := by
  cases hm : mnemonicOf (upper rec.mnemonic) with
  | none => rw [decode, hm]
  | some m => exact absurd (mnemonicOf_eq_some.mp hm) (h m)

/-- The mnemonic makes of the encoder's tokens the instruction they come from. -/
theorem build_tokens {i : Instr} (h : i.printable = true) : i.mnemonic.build i.tokens = i := by
  cases i with
  | jmp ops | je ops | jne ops | jg ops | jge ops | jl ops | jle ops | js ops | jns ops | ja ops | jae ops | jb ops
  | jbe ops | call ops | ret ops | loop ops | loope ops | loopne ops | loopz ops | loopnz ops =>
    simp only [Instr.mnemonic, Instr.tokens, Mnemonic.build, map_trim_labels h]
  | _ ops => simp only [Instr.mnemonic, Instr.tokens, Mnemonic.build, map_resolve_tokens h]

theorem decode_encode {i : Instr} (h : i.printable = true) : decode (encode i) = .ok i :=
  have named := mnemonicOf_eq_some.mp (Laws.SameMnemonic.name_selects i.mnemonic)
  decode_eq_ok.mpr ⟨i.mnemonic, named, (build_tokens h).symm⟩

end Sys2Proof
end

section
/-! # The round trip

The instructions of an admitted form have operands that the encoder can spell, so the round trip covers them. -/

namespace Sys2Proof

section
variable {ops : List Operand}

theorem movForm_resolved (h : movForm ops = true) : ops.all Operand.resolved = true := by
  unfold movForm at h
  split at h <;> simp_all [Operand.resolved]

theorem binaryForm_resolved (h : binaryForm ops = true) : ops.all Operand.resolved = true := by
  unfold binaryForm at h
  split at h <;> simp_all [Operand.resolved]

theorem unaryForm_resolved (h : unaryForm ops = true) : ops.all Operand.resolved = true := by
  unfold unaryForm at h
  split at h <;> simp_all [Operand.resolved]

theorem xaddForm_resolved (h : xaddForm ops = true) : ops.all Operand.resolved = true := by
  unfold xaddForm at h
  split at h <;> simp_all [Operand.resolved]

theorem cmovForm_resolved (h : cmovForm ops = true) : ops.all Operand.resolved = true := by
  unfold cmovForm at h
  split at h <;> simp_all [Operand.resolved]

theorem scanForm_resolved (h : scanForm ops = true) : ops.all Operand.resolved = true := by
  unfold scanForm at h
  split at h <;> simp_all [Operand.resolved]

theorem bswapForm_resolved (h : bswapForm ops = true) : ops.all Operand.resolved = true := by
  unfold bswapForm at h
  split at h <;> simp_all [Operand.resolved]

theorem pushForm_resolved (h : pushForm ops = true) : ops.all Operand.resolved = true := by
  unfold pushForm at h
  split at h <;> simp_all [Operand.resolved]

theorem regMemForm_resolved (h : regMemForm ops = true) : ops.all Operand.resolved = true := by
  unfold regMemForm at h
  split at h <;> simp_all [Operand.resolved]

theorem shiftForm_resolved (h : shiftForm ops = true) : ops.all Operand.resolved = true := by
  unfold shiftForm at h
  split at h <;> simp_all [Operand.resolved]

theorem intForm_resolved (h : intForm ops = true) : ops.all Operand.resolved = true := by
  unfold intForm at h
  split at h <;> simp_all [Operand.resolved]

theorem isEmpty_resolved (h : ops.isEmpty = true) : ops.all Operand.resolved = true := by
  rw [List.isEmpty_iff.mp h]
  rfl

end

theorem labelForm_trimmed {labels : List Text} (h : labelForm labels = true) : labels.all labelTrimmed = true := by
  unfold labelForm at h
  split at h <;> simp_all

/-- Every form of the table has operands that resolved and labels without white space around them. -/
theorem printable_of_wf {i : Instr} (h : i.wf = true) : i.printable = true := by
  cases i with
  | mov ops => exact movForm_resolved h
  | cmovo ops | cmovno ops | cmovb ops | cmovae ops | cmove ops | cmovz ops | cmovne ops | cmovnz ops | cmovbe ops
  | cmova ops | cmovs ops | cmovns ops | cmovl ops | cmovge ops | cmovle ops | cmovg ops => exact cmovForm_resolved h
  | push ops => exact pushForm_resolved h
  | bswap ops => exact bswapForm_resolved h
  | add ops | sub ops | cmp ops | and ops | or ops | xor ops | test ops => exact binaryForm_resolved h
  | inc ops | dec ops | neg ops => exact unaryForm_resolved h
  | xadd ops => exact xaddForm_resolved h
  | bsf ops | bsr ops => exact scanForm_resolved h
  | shl ops | shr ops | sar ops | rol ops | ror ops | rcl ops | rcr ops => exact shiftForm_resolved h
  | pop ops | mul ops | imul ops | div ops | idiv ops => exact regMemForm_resolved h
  | int ops => exact intForm_resolved h
  | lahf ops | sahf ops | lods ops | stos ops | movs ops | scas ops | cmps ops | int3 ops | iret ops | hlt ops =>
    exact isEmpty_resolved h
  | ret labels =>
    rw [List.isEmpty_iff.mp h]
    rfl
  | _ labels => exact labelForm_trimmed h

end Sys2Proof

namespace Sys2Proof.Machine

/-- Settles O1: the encoder's tokens resolve to what they were made of. -/
theorem encodeThenDecode : Obligations.EncodeThenDecode := by
  unfold Obligations.EncodeThenDecode
  exact ⟨fun _ => decode_encode, fun _ => printable_of_wf⟩

/-- Settles O3: the mnemonic of a record in upper case is the name of the instruction it decodes to, if any. -/
theorem mnemonicSelectsInstruction : Obligations.MnemonicSelectsInstruction := by
  unfold Obligations.MnemonicSelectsInstruction
  refine ⟨fun rec m h => ⟨_, decode_eq_ok.mpr ⟨m, h, rfl⟩, m.mnemonic_build _⟩, fun rec i h => ?_,
    fun s rec hc hf hh hr hm => ?_⟩
  · obtain ⟨m, hm, rfl⟩ := decode_eq_ok.mp h
    rwa [m.mnemonic_build]
  · simp [step, stepWith, hc, hf, hh, hr, decode_eq_error hm]

/-- Settles O2: the decoder evaluates on each word. -/
theorem decodedWords : Obligations.DecodedWords := by
  unfold Obligations.DecodedWords
  decide

end Sys2Proof.Machine
end

section
/-! # Operand counts and forms

Every instruction checks its operand count first, and every one that the stepper advances then checks its tokens and its
form, and only after that does anything (30_encoding.md R81 to R89, 60_exceptions.md R219). -/

namespace Sys2Proof.Machine

-- ## The count

section
variable {m : Mnemonic} {ops : List Operand} {s : State}

theorem operands0_wrongCount {go : Run Unit} (h : ops.length ≠ 0) :
    operands0 m ops s go = wrongCount m ops.length s := by
  unfold operands0
  split
  · exact absurd rfl h
  · rfl

theorem operands1_wrongCount {go : Operand → Run Unit} (h : ops.length ≠ 1) :
    operands1 m ops s go = wrongCount m ops.length s := by
  unfold operands1
  split
  · exact absurd rfl h
  · rfl

theorem operands2_wrongCount {go : Operand → Operand → Run Unit} (h : ops.length ≠ 2) :
    operands2 m ops s go = wrongCount m ops.length s := by
  unfold operands2
  split
  · exact absurd rfl h
  · rfl

theorem oneLabel_wrongCount {labels : List Text} {effect : State → State} (h : labels.length ≠ 1) :
    oneLabel labels s effect = .refused .formNotAdmitted := by
  unfold oneLabel
  split
  · exact absurd rfl h
  · rfl

theorem handleRet_wrongCount {labels : List Text} (h : labels.length ≠ 0) :
    handleRet labels s = .refused .formNotAdmitted := by
  unfold handleRet
  split
  · exact absurd rfl h
  · rfl

end

/-- With a wrong operand count a handler does nothing else (30_encoding.md R88, R89). -/
theorem handler_wrongCount {i : Instr} (h : i.arity ≠ declaredCount i.mnemonic) (s : State) :
    handler i s = wrongCount i.mnemonic i.arity s := by
  cases i with
  | lahf ops | sahf ops | lods ops | stos ops | movs ops | scas ops | cmps ops | int3 ops | iret ops | hlt ops =>
    exact operands0_wrongCount h
  | push ops | pop ops | bswap ops | inc ops | dec ops | neg ops | mul ops | imul ops | div ops | idiv ops | int ops =>
    exact operands1_wrongCount h
  | jmp ops | je ops | jne ops | jg ops | jge ops | jl ops | jle ops | js ops | jns ops | ja ops | jae ops | jb ops
  | jbe ops | call ops | loop ops | loope ops | loopne ops | loopz ops | loopnz ops => exact oneLabel_wrongCount h
  | ret ops => exact handleRet_wrongCount h
  | _ ops => exact operands2_wrongCount h

/-- The counts that are refused whatever the policy (30_encoding.md R89). -/
theorem countRefused_iff {m : Mnemonic} {n : Nat} : countRefused m n = true ↔
    m ∈ controlMnemonics ∨ (m = .imul ∧ (n = 2 ∨ n = 3)) ∨ (m ∈ shiftMnemonics ∧ n = 1) := by
  cases m <;> simp [countRefused, controlMnemonics, shiftMnemonics]

theorem wrongCount_of_refused {m : Mnemonic} {n : Nat} (h : countRefused m n = true) (s : State) :
    wrongCount m n s = .refused .formNotAdmitted := if_pos h

theorem wrongCount_of_noop {m : Mnemonic} {n : Nat} {s : State} (h : countRefused m n = false)
    (hp : s.cfg.countPolicy = .noop) : wrongCount m n s = .done () s := by
  simp [wrongCount, h, hp]

theorem wrongCount_of_fault {m : Mnemonic} {n : Nat} {s : State} (h : countRefused m n = false)
    (hp : s.cfg.countPolicy = .fault) : wrongCount m n s = .raised (.badOperandCount m) s := by
  simp [wrongCount, h, hp]

/-- An instruction whose handler refuses is refused. -/
theorem exec_of_handler_refused {i : Instr} {s : State} {r : Refusal} (h : handler i s = .refused r) :
    exec i s = .refused r := by
  obtain ⟨k, hk⟩ := exists_stepperPart i
  rw [hk.exec_eq, h, Run.bind_refused, finish_refused]

/-- An instruction outside the control flow goes to the next index (48_control_flow.md R181). -/
theorem exec_eq_advance {i : Instr} (h : i.mnemonic ∉ controlMnemonics) (s : State) :
    exec i s = finish (advance (handler i s)) := by
  cases i with
  | jmp ops | je ops | jne ops | jg ops | jge ops | jl ops | jle ops | js ops | jns ops | ja ops | jae ops | jb ops
  | jbe ops | call ops | ret ops | loop ops | loope ops | loopne ops | loopz ops | loopnz ops =>
    exact absurd (by simp [Instr.mnemonic, controlMnemonics]) h
  | _ ops => rfl

/-- Settles O29: by the check of the count, which every handler begins with. -/
theorem wrongOperandCounts : Obligations.WrongOperandCounts := by
  unfold Obligations.WrongOperandCounts
  intro i s h
  have handled := handler_wrongCount h s
  dsimp only
  rw [← countRefused_iff]
  refine ⟨fun hr => ?_, fun hr hp => ?_, fun hr hp => ?_⟩
  · exact exec_of_handler_refused (handled.trans (wrongCount_of_refused hr s))
  all_goals
    have notControl : i.mnemonic ∉ controlMnemonics := fun hc => hr (countRefused_iff.mpr (.inl hc))
    rw [exec_eq_advance notControl, handled]
  · rw [wrongCount_of_noop (eq_false_of_ne_true hr) hp]
    rfl
  · rw [wrongCount_of_fault (eq_false_of_ne_true hr) hp]
    exact ⟨_, rfl, rfl, rfl⟩

end Sys2Proof.Machine
end

section
/-! # The form table

`FormChecked` says that a handler checks its tokens, then its form, and is refused for a form nowhere else; the checks
of WellFormed.lean agree with those the handlers make (30_encoding.md R81, R85 to R87). -/

namespace Sys2Proof.Machine

-- ## What comes after the form check

/-- One of the two refusals of a form outside the table (60_exceptions.md R212). -/
def Refusal.ofForm : Refusal → Bool
  | .formNotAdmitted | .byteFormNotShown => true
  | _ => false

/-- The run is not refused for a form: it comes after the form check. -/
def Run.PastForm {α : Type} : Run α → Prop
  | .refused r => r.ofForm = false
  | _ => True

section
variable {α β : Type} {s : State}

theorem Run.PastForm.bind {x : Run α} (hx : x.PastForm) {k : α → State → Run β} (hk : ∀ a u, (k a u).PastForm) :
    (x.bind k).PastForm := by
  cases x with
  | done a u => exact hk a u
  | raised e u => trivial
  | refused r => exact hx

theorem Run.PastForm.ite {c : Prop} [Decidable c] {x y : Run α} (hx : x.PastForm) (hy : y.PastForm) :
    (if c then x else y).PastForm := by
  split <;> assumption

theorem memRead_pastForm (a : Word) (n : Nat) : (memRead s a n).PastForm := .ite trivial rfl

theorem memWrite_pastForm (a : Word) (n : Nat) (v : Word) : (memWrite s a n v).PastForm :=
  .ite rfl (.ite trivial trivial)

theorem readOp_pastForm (op : Operand) : (readOp s op).PastForm := by
  cases op with
  | mem m => exact memRead_pastForm _ 4
  | _ => trivial

theorem writeOp_pastForm (op : Operand) (v : Word) : (writeOp s op v).PastForm := by
  cases op with
  | mem m => exact memWrite_pastForm _ 4 v
  | _ => trivial

end

/-- The run checks the tokens of the operands and then the form, and what is left is not refused for a form. -/
def FormChecked (x : Run Unit) (ops : List Operand) (s : State) (f : Form) : Prop :=
  ∃ wide narrow, wide.PastForm ∧ narrow.PastForm ∧ x = resolved ops s (f.check s wide narrow)

theorem formChecked {ops : List Operand} {s : State} {f : Form} {wide narrow : Run Unit} (hw : wide.PastForm)
    (hn : narrow.PastForm) : FormChecked (resolved ops s (f.check s wide narrow)) ops s f := ⟨wide, narrow, hw, hn, rfl⟩

/-- What a handler does alike in both widths. -/
theorem formChecked_same {ops : List Operand} {s : State} {f : Form} {body : Run Unit} (h : body.PastForm) :
    FormChecked (resolved ops s (f.check s body body)) ops s f := formChecked h h

-- ## The shared frames

section
variable {m : Mnemonic} {s : State} {a b : Operand}

/-- An instruction of no operand has one form. -/
theorem bare_formChecked {go : Run Unit} (h : go.PastForm) : FormChecked go [] s .wide := ⟨go, go, h, h, rfl⟩

/-- Both operands are read, the source first. -/
theorem readBoth_pastForm {k : Word → Word → State → Run Unit} (h : ∀ v d u, (k v d u).PastForm) :
    ((readOp s b).bind fun v u => (readOp u a).bind fun d t => k v d t).PastForm :=
  (readOp_pastForm b).bind fun v _ => (readOp_pastForm a).bind fun d t => h v d t

theorem binaryOp_formChecked {f : Word → Word → Word} {fl : Word → Word → Word → Word → Word} {op : ByteOp} :
    FormChecked (binaryOp m f fl op [a, b] s) [a, b] s (formBinary a b) :=
  formChecked (readBoth_pastForm fun _ _ _ => (writeOp_pastForm a _).bind fun _ _ => trivial)
    (readBoth_pastForm fun _ _ _ => (writeOp_pastForm a _).bind fun _ _ => trivial)

theorem compareOp_formChecked {f : Word → Word → Word} {fl : Word → Word → Word → Word → Word} {op : ByteOp} :
    FormChecked (compareOp m f fl op [a, b] s) [a, b] s (formBinary a b) :=
  formChecked (readBoth_pastForm fun _ _ _ => trivial) (readBoth_pastForm fun _ _ _ => trivial)

theorem unaryOp_formChecked {f : Word → Word} {fl : Word → Word → Word → Word} {op : ByteOp} {c : Byte} :
    FormChecked (unaryOp m f fl op c [a] s) [a] s (formUnary a) :=
  formChecked ((readOp_pastForm a).bind fun _ _ => (writeOp_pastForm a _).bind fun _ _ => trivial)
    ((readOp_pastForm a).bind fun _ _ => (writeOp_pastForm a _).bind fun _ _ => trivial)

/-- A value read from the source and written to the destination. -/
theorem move_pastForm : ((readOp s b).bind fun v u => writeOp u a v).PastForm :=
  (readOp_pastForm b).bind fun v _ => writeOp_pastForm a v

theorem cmov_formChecked {c : Cond} : FormChecked (cmov m c [a, b] s) [a, b] s (formCmov s a b) :=
  formChecked_same (.ite move_pastForm trivial)

theorem scanOp_formChecked {index : Word → Nat} : FormChecked (scanOp m index [a, b] s) [a, b] s (formScan a b) :=
  formChecked_same ((readOp_pastForm b).bind fun _ _ => .ite trivial trivial)

theorem shiftOp_formChecked {f : Word → Word → Nat → Word} {fl : State → Word → Nat → Nat → Word → Word} :
    FormChecked (shiftOp m f fl [a, b] s) [a, b] s (formShift a b) :=
  formChecked_same <| (readOp_pastForm b).bind fun _ _ => .ite (.ite rfl trivial) <|
    (readOp_pastForm a).bind fun _ _ => (writeOp_pastForm a _).bind fun _ _ => trivial

theorem accumulatorOp_formChecked {go : Word → State → Run Unit} (h : ∀ v u, (go v u).PastForm) :
    FormChecked (accumulatorOp m [a] s go) [a] s (formRegMem a) :=
  formChecked_same ((readOp_pastForm a).bind h)

end

-- ## Every handler

section
variable {s : State} {a b : Operand}

theorem handleMov_formChecked : FormChecked (handleMov [a, b] s) [a, b] s (formMov a b) :=
  formChecked_same (.ite trivial move_pastForm)

theorem handleXadd_formChecked : FormChecked (handleXadd [a, b] s) [a, b] s (formXadd a b) := formChecked_same trivial

theorem handlePush_formChecked : FormChecked (handlePush [a] s) [a] s (formPush a) :=
  formChecked_same ((readOp_pastForm a).bind fun v _ => memWrite_pastForm _ 4 v)

theorem handlePop_formChecked : FormChecked (handlePop [a] s) [a] s (formRegMem a) :=
  formChecked_same ((memRead_pastForm _ 4).bind fun v _ => writeOp_pastForm a v)

theorem handleBswap_formChecked : FormChecked (handleBswap [a] s) [a] s (formBswap a) :=
  formChecked_same ((readOp_pastForm a).bind fun _ _ => writeOp_pastForm a _)

theorem handleInt_formChecked : FormChecked (handleInt [a] s) [a] s (formInt a) :=
  formChecked_same ((readOp_pastForm a).bind fun _ _ => trivial)

end

/-- Every instruction outside the control flow checks the form that the verdict names (30_encoding.md R94). -/
theorem handler_formChecked {i : Instr} (hc : i.mnemonic ∉ controlMnemonics) (ha : i.arity = declaredCount i.mnemonic)
    (s : State) : FormChecked (handler i s) i.operands s (formOf i s) := by
  cases i with
  | jmp ops | je ops | jne ops | jg ops | jge ops | jl ops | jle ops | js ops | jns ops | ja ops | jae ops | jb ops
  | jbe ops | call ops | ret ops | loop ops | loope ops | loopne ops | loopz ops | loopnz ops =>
    exact absurd (by simp [Instr.mnemonic, controlMnemonics]) hc
  | lahf ops | sahf ops | int3 ops | iret ops | hlt ops =>
    obtain rfl := List.length_eq_zero_iff.mp ha
    exact bare_formChecked trivial
  | lods ops | scas ops =>
    obtain rfl := List.length_eq_zero_iff.mp ha
    exact bare_formChecked ((memRead_pastForm _ 1).bind fun _ _ => trivial)
  | stos ops =>
    obtain rfl := List.length_eq_zero_iff.mp ha
    exact bare_formChecked ((memWrite_pastForm _ 1 _).bind fun _ _ => trivial)
  | movs ops =>
    obtain rfl := List.length_eq_zero_iff.mp ha
    exact bare_formChecked <| (memRead_pastForm _ 1).bind fun _ _ => (memWrite_pastForm _ 1 _).bind fun _ _ => trivial
  | cmps ops =>
    obtain rfl := List.length_eq_zero_iff.mp ha
    exact bare_formChecked <| (memRead_pastForm _ 1).bind fun _ _ => (memRead_pastForm _ 1).bind fun _ _ => trivial
  | push ops =>
    obtain ⟨a, rfl⟩ := List.length_eq_one_iff.mp ha
    exact handlePush_formChecked
  | pop ops =>
    obtain ⟨a, rfl⟩ := List.length_eq_one_iff.mp ha
    exact handlePop_formChecked
  | bswap ops =>
    obtain ⟨a, rfl⟩ := List.length_eq_one_iff.mp ha
    exact handleBswap_formChecked
  | int ops =>
    obtain ⟨a, rfl⟩ := List.length_eq_one_iff.mp ha
    exact handleInt_formChecked
  | inc ops | dec ops | neg ops =>
    obtain ⟨a, rfl⟩ := List.length_eq_one_iff.mp ha
    simp only [handler, handleInc, handleDec, handleNeg]
    exact unaryOp_formChecked
  | mul ops | imul ops =>
    obtain ⟨a, rfl⟩ := List.length_eq_one_iff.mp ha
    simp only [handler, handleMul, handleImul]
    exact accumulatorOp_formChecked fun _ _ => trivial
  | div ops =>
    obtain ⟨a, rfl⟩ := List.length_eq_one_iff.mp ha
    exact accumulatorOp_formChecked (m := .div) fun _ _ => .ite trivial (.ite rfl trivial)
  | idiv ops =>
    obtain ⟨a, rfl⟩ := List.length_eq_one_iff.mp ha
    exact accumulatorOp_formChecked (m := .idiv) fun _ _ => .ite trivial (.ite rfl (.ite rfl trivial))
  | mov ops =>
    obtain ⟨a, b, rfl⟩ := List.length_eq_two.mp ha
    exact handleMov_formChecked
  | xadd ops =>
    obtain ⟨a, b, rfl⟩ := List.length_eq_two.mp ha
    exact handleXadd_formChecked
  | add ops | sub ops | and ops | or ops | xor ops =>
    obtain ⟨a, b, rfl⟩ := List.length_eq_two.mp ha
    simp only [handler, handleAdd, handleSub, handleAnd, handleOr, handleXor]
    exact binaryOp_formChecked
  | cmp ops | test ops =>
    obtain ⟨a, b, rfl⟩ := List.length_eq_two.mp ha
    simp only [handler, handleCmp, handleTest]
    exact compareOp_formChecked
  | bsf ops | bsr ops =>
    obtain ⟨a, b, rfl⟩ := List.length_eq_two.mp ha
    simp only [handler, handleBsf, handleBsr]
    exact scanOp_formChecked
  | shl ops | shr ops | sar ops | rol ops | ror ops | rcl ops | rcr ops =>
    obtain ⟨a, b, rfl⟩ := List.length_eq_two.mp ha
    simp only [handler, handleShl, handleShr, handleSar, handleRol, handleRor, handleRcl, handleRcr]
    exact shiftOp_formChecked
  | _ ops =>
    obtain ⟨a, b, rfl⟩ := List.length_eq_two.mp ha
    simp only [handler, handleCmovo, handleCmovno, handleCmovb, handleCmovae, handleCmove, handleCmovz, handleCmovne,
      handleCmovnz, handleCmovbe, handleCmova, handleCmovs, handleCmovns, handleCmovl, handleCmovge, handleCmovle,
      handleCmovg]
    exact cmov_formChecked

-- ## The two accounts of the forms agree

/-- The form check of a handler gives what the form table says: outside the table a refusal of a form; inside it none,
but where `device` holds, of a source in a device's range (30_encoding.md R81, 41_data_movement.md R115). -/
def Form.Agrees (f : Form) (inTable : Bool) (device : Prop) : Prop :=
  match f with
  | .wide | .narrow | .noop => inTable = true
  | .reject .formNotAdmitted => inTable = true → device
  | .reject .byteFormNotShown => inTable = false
  | .reject _ => False

theorem Form.Agrees.imp {f : Form} {inTable : Bool} {device device' : Prop} (h : f.Agrees inTable device)
    (hd : device → device') : f.Agrees inTable device' := by
  cases f with
  | wide | narrow | noop => exact h
  | reject r =>
    cases r with
    | formNotAdmitted => exact fun hi => hd (h hi)
    | _ => exact h

section
variable {device : Prop}

theorem formMov_agrees (a b : Operand) : (formMov a b).Agrees (movForm [a, b]) device := by
  cases a <;> cases b <;> simp [formMov, movForm, Form.Agrees, Form.never, Form.byteOnly] <;> split_ifs <;> simp_all

theorem formBinary_agrees (a b : Operand) : (formBinary a b).Agrees (binaryForm [a, b]) device := by
  cases a <;> cases b <;> simp [formBinary, binaryForm, Form.Agrees, Form.never, Form.byteOnly] <;> split_ifs <;>
    simp_all

theorem formUnary_agrees (a : Operand) : (formUnary a).Agrees (unaryForm [a]) device := by
  cases a <;> simp [formUnary, unaryForm, Form.Agrees, Form.never]

/-- The second operand of an XADD that is ignored has to resolve. -/
theorem formXadd_agrees (a : Operand) {b : Operand} (hb : b.resolved = true) :
    (formXadd a b).Agrees (xaddForm [a, b]) device := by
  cases a <;> cases b <;> simp_all [formXadd, xaddForm, Form.Agrees, Form.never, Form.byteOnly]

theorem formScan_agrees (a b : Operand) : (formScan a b).Agrees (scanForm [a, b]) device := by
  cases a <;> cases b <;> simp [formScan, scanForm, Form.Agrees, Form.never, Form.byteOnly]

theorem formBswap_agrees (a : Operand) : (formBswap a).Agrees (bswapForm [a]) device := by
  cases a <;> simp [formBswap, bswapForm, Form.Agrees, Form.never, Form.byteOnly]

theorem formPush_agrees (a : Operand) : (formPush a).Agrees (pushForm [a]) device := by
  cases a <;> simp [formPush, pushForm, Form.Agrees, Form.never, Form.byteOnly]

theorem formRegMem_agrees (a : Operand) : (formRegMem a).Agrees (regMemForm [a]) device := by
  cases a <;> simp [formRegMem, regMemForm, Form.Agrees, Form.never, Form.byteOnly]

theorem formShift_agrees (a b : Operand) : (formShift a b).Agrees (shiftForm [a, b]) device := by
  cases a <;> cases b <;> simp [formShift, shiftForm, Form.Agrees, Form.never, Form.byteOnly]

theorem formInt_agrees (a : Operand) : (formInt a).Agrees (intForm [a]) device := by
  cases a <;> simp [formInt, intForm, Form.Agrees, Form.never]

/-- A CMOVcc of the table is refused for a source in a device's range alone (41_data_movement.md R115). -/
theorem formCmov_agrees (s : State) (a b : Operand) :
    (formCmov s a b).Agrees (cmovForm [a, b]) (∃ m, b = .mem m ∧ isMmio s.cfg (ea s m).toNat = true) := by
  cases a <;> cases b <;> simp [formCmov, cmovForm, Form.Agrees, Form.never, Form.byteOnly] <;> split_ifs <;> simp_all

end

/-- The instruction is a CMOVcc whose source is in a device's range. -/
def DeviceSource (i : Instr) (s : State) : Prop :=
  ∃ p ∈ cmovs, ∃ dst m, i = p.2 [dst, .mem m] ∧ isMmio s.cfg (ea s m).toNat = true

/-- The form of an instruction outside the control flow agrees with the form table. -/
theorem formOf_agrees {i : Instr} (hc : i.mnemonic ∉ controlMnemonics) (ha : i.arity = declaredCount i.mnemonic)
    (hp : i.printable = true) (s : State) : (formOf i s).Agrees i.wf (DeviceSource i s) := by
  cases i with
  | jmp ops | je ops | jne ops | jg ops | jge ops | jl ops | jle ops | js ops | jns ops | ja ops | jae ops | jb ops
  | jbe ops | call ops | ret ops | loop ops | loope ops | loopne ops | loopz ops | loopnz ops =>
    exact absurd (by simp [Instr.mnemonic, controlMnemonics]) hc
  | lahf ops | sahf ops | lods ops | stos ops | movs ops | scas ops | cmps ops | int3 ops | iret ops | hlt ops =>
    obtain rfl := List.length_eq_zero_iff.mp ha
    rfl
  | push ops =>
    obtain ⟨a, rfl⟩ := List.length_eq_one_iff.mp ha
    exact formPush_agrees a
  | bswap ops =>
    obtain ⟨a, rfl⟩ := List.length_eq_one_iff.mp ha
    exact formBswap_agrees a
  | int ops =>
    obtain ⟨a, rfl⟩ := List.length_eq_one_iff.mp ha
    exact formInt_agrees a
  | inc ops | dec ops | neg ops =>
    obtain ⟨a, rfl⟩ := List.length_eq_one_iff.mp ha
    exact formUnary_agrees a
  | pop ops | mul ops | imul ops | div ops | idiv ops =>
    obtain ⟨a, rfl⟩ := List.length_eq_one_iff.mp ha
    exact formRegMem_agrees a
  | mov ops =>
    obtain ⟨a, b, rfl⟩ := List.length_eq_two.mp ha
    exact formMov_agrees a b
  | xadd ops =>
    obtain ⟨a, b, rfl⟩ := List.length_eq_two.mp ha
    exact formXadd_agrees a (List.all_eq_true.mp hp b (by simp))
  | add ops | sub ops | cmp ops | and ops | or ops | xor ops | test ops =>
    obtain ⟨a, b, rfl⟩ := List.length_eq_two.mp ha
    exact formBinary_agrees a b
  | bsf ops | bsr ops =>
    obtain ⟨a, b, rfl⟩ := List.length_eq_two.mp ha
    exact formScan_agrees a b
  | shl ops | shr ops | sar ops | rol ops | ror ops | rcl ops | rcr ops =>
    obtain ⟨a, b, rfl⟩ := List.length_eq_two.mp ha
    exact formShift_agrees a b
  | _ ops =>
    obtain ⟨a, b, rfl⟩ := List.length_eq_two.mp ha
    refine (formCmov_agrees s a b).imp ?_
    rintro ⟨m, rfl, hm⟩
    simp [DeviceSource, cmovs, hm]

-- ## The outcome

/-- Operands that all resolved stop no instruction. -/
theorem resolved_operands {i : Instr} (hc : i.mnemonic ∉ controlMnemonics) (hp : i.printable = true) (s : State)
    (go : Run Unit) : resolved i.operands s go = go := by
  have all : i.operands.all Operand.resolved = true := by
    cases i with
    | jmp ops | je ops | jne ops | jg ops | jge ops | jl ops | jle ops | js ops | jns ops | ja ops | jae ops | jb ops
    | jbe ops | call ops | ret ops | loop ops | loope ops | loopne ops | loopz ops | loopnz ops => rfl
    | _ ops => exact hp
  refine resolved_of_all (fun op hop => ?_) s go
  have hr := List.all_eq_true.mp all op hop
  constructor <;> rintro tok rfl <;> cases hr

/-- What comes after the form check does not end in a refusal of a form. -/
theorem finish_advance_ne_refused {x : Run Unit} (h : x.PastForm) {r : Refusal} (hr : r.ofForm = true) :
    finish (advance x) ≠ .refused r := by
  cases x with
  | done a u | raised e u => nofun
  | refused q =>
    rintro ⟨⟩
    exact absurd hr (ne_true_of_eq_false h)

/-- What the form table says about an outcome (30_encoding.md R81): outside it one of the two refusals, inside it
neither, but where `device` holds. -/
def ObeysTable (o : Host.Outcome State Fault Refusal) (inTable : Bool) (device : Prop) : Prop :=
  (inTable = false → o = .refused .formNotAdmitted ∨ o = .refused .byteFormNotShown) ∧
  (inTable = true → o ≠ .refused .byteFormNotShown) ∧
  (inTable = true → o = .refused .formNotAdmitted → device)

/-- Inside the table, an outcome that is not refused for a form obeys it. -/
theorem obeysTable_of_ne_refused {o : Host.Outcome State Fault Refusal} {inTable : Bool} {device : Prop}
    (ht : inTable = true) (h : ∀ r : Refusal, r.ofForm = true → o ≠ .refused r) : ObeysTable o inTable device :=
  ⟨fun hf => absurd ht (ne_true_of_eq_false hf), fun _ => h _ rfl, fun _ he => absurd he (h _ rfl)⟩

/-- A form that agrees with the table gives an outcome that obeys it. -/
theorem Form.Agrees.obeysTable {f : Form} {inTable : Bool} {device : Prop} (h : f.Agrees inTable device) (s : State)
    {wide narrow : Run Unit} (hw : wide.PastForm) (hn : narrow.PastForm) :
    ObeysTable (finish (advance (f.check s wide narrow))) inTable device := by
  cases f with
  | wide => exact obeysTable_of_ne_refused h fun _ => finish_advance_ne_refused hw
  | narrow => exact obeysTable_of_ne_refused h fun _ => finish_advance_ne_refused hn
  | noop => exact obeysTable_of_ne_refused h fun _ _ => nofun
  | reject r =>
    cases r with
    | formNotAdmitted => exact ⟨fun _ => .inl rfl, fun _ => nofun, fun hi _ => h hi⟩
    | byteFormNotShown => exact ⟨fun _ => .inr rfl, fun hi => absurd hi (ne_true_of_eq_false h),
        fun hi => absurd hi (ne_true_of_eq_false h)⟩
    | _ => exact h.elim

/-- An instruction with one label is not refused: it finds its label or takes a fault (48_control_flow.md R183). -/
theorem finish_branch_ne_refused {m : Mnemonic} {name : Text} {s : State} {effect : State → State}
    {go : Nat → State → State} {r : Refusal} : finish (branch m [name] (oneLabel [name] s effect) go) ≠ .refused r := by
  cases hl : (effect s).labels.lookup name with
  | some target =>
    rw [branch_found hl]
    nofun
  | none =>
    rw [branch_missing hl]
    nofun

/-- The control-flow instructions with their declared count and trimmed labels are all in the table. -/
theorem wf_of_control {i : Instr} (hc : i.mnemonic ∈ controlMnemonics) (ha : i.arity = declaredCount i.mnemonic)
    (hp : i.printable = true) : i.wf = true := by
  cases i with
  | jmp ops | je ops | jne ops | jg ops | jge ops | jl ops | jle ops | js ops | jns ops | ja ops | jae ops | jb ops
  | jbe ops | call ops | loop ops | loope ops | loopne ops | loopz ops | loopnz ops =>
    obtain ⟨name, rfl⟩ := List.length_eq_one_iff.mp ha
    exact List.all_eq_true.mp hp name List.mem_cons_self
  | ret ops => exact List.isEmpty_iff.mpr (List.length_eq_zero_iff.mp ha)
  | _ ops => exact absurd hc (by simp [Instr.mnemonic, controlMnemonics])

theorem control_ne_refused {i : Instr} (hc : i.mnemonic ∈ controlMnemonics) (ha : i.arity = declaredCount i.mnemonic)
    (s : State) (r : Refusal) : exec i s ≠ .refused r := by
  cases i with
  | jmp ops | je ops | jne ops | jg ops | jge ops | jl ops | jle ops | js ops | jns ops | ja ops | jae ops | jb ops
  | jbe ops | call ops | loop ops | loope ops | loopne ops | loopz ops | loopnz ops =>
    obtain ⟨name, rfl⟩ := List.length_eq_one_iff.mp ha
    exact finish_branch_ne_refused
  | ret ops =>
    obtain rfl := List.length_eq_zero_iff.mp ha
    nofun
  | _ ops => exact absurd hc (by simp [Instr.mnemonic, controlMnemonics])

/-- Settles O30: the form check agrees with the table, and nothing after it is refused for a form. -/
theorem formTable : Obligations.FormTable := by
  unfold Obligations.FormTable
  intro i s ha hp
  by_cases hc : i.mnemonic ∈ controlMnemonics
  · exact obeysTable_of_ne_refused (wf_of_control hc ha hp) fun r _ => control_ne_refused hc ha s r
  · obtain ⟨wide, narrow, hw, hn, handled⟩ := handler_formChecked hc ha s
    rw [exec_eq_advance hc, handled, resolved_operands hc hp]
    exact (formOf_agrees hc ha hp s).obeysTable s hw hn

end Sys2Proof.Machine
end

section
/-! # Flags in integers

What the carry and the overflow of an addition and a subtraction say about the integers behind the words
(40_flag_module.md R97 to R101), and the conditions after a comparison (R112). -/

namespace Sys2Proof.Machine

-- ## The four flags of a bitset that replaces them

section
variable (f : Word) (c z n o : Bool)

@[simp] theorem cf_putFlags : cf (putFlags f c z n o) = c := by simp [putFlags]
@[simp] theorem zf_putFlags : zf (putFlags f c z n o) = z := by simp [putFlags]
@[simp] theorem sf_putFlags : sf (putFlags f c z n o) = n := by simp [putFlags]
@[simp] theorem of_putFlags : of (putFlags f c z n o) = o := by simp [putFlags]

end

-- ## Addition and subtraction of words as integers

section
variable (d v : Word)

theorem toInt_word_bounds : -2 ^ 31 ≤ d.toInt ∧ d.toInt < 2 ^ 31 := ⟨d.le_toInt, d.toInt_lt⟩

/-- The sum of two words is less than the first exactly when it does not fit in 32 bits. -/
theorem add_ult_left_iff : (d + v).ult d = true ↔ 2 ^ 32 ≤ d.toNat + v.toNat := by
  rw [BitVec.ult_iff_toNat_lt, BitVec.toNat_add]
  omega

/-- Two words differ as integers by what their difference says, or by 2^32 more or less where that does not fit. -/
theorem toInt_sub_wraps : (d - v).toInt =
    if d.toInt - v.toInt < -2 ^ 31 then d.toInt - v.toInt + 2 ^ 32
    else if 2 ^ 31 ≤ d.toInt - v.toInt then d.toInt - v.toInt - 2 ^ 32
    else d.toInt - v.toInt := by
  have hd := toInt_word_bounds d
  have hv := toInt_word_bounds v
  rw [BitVec.toInt_sub, Int.bmod_def]
  omega

theorem saddOverflow_iff :
    d.saddOverflow v = true ↔ d.toInt + v.toInt < -2 ^ 31 ∨ 2 ^ 31 ≤ d.toInt + v.toInt := by
  simp [BitVec.saddOverflow, or_comm]

theorem ssubOverflow_iff :
    d.ssubOverflow v = true ↔ d.toInt - v.toInt < -2 ^ 31 ∨ 2 ^ 31 ≤ d.toInt - v.toInt := by
  simp [BitVec.ssubOverflow, or_comm]

/-- A subtraction overflows exactly when the word it gives is not the integer difference. -/
theorem ssubOverflow_iff_toInt_ne : d.ssubOverflow v = true ↔ d.toInt - v.toInt ≠ (d - v).toInt := by
  rw [ssubOverflow_iff, toInt_sub_wraps]
  omega

/-- The sign of a difference and its overflow disagree exactly when the first word is the lesser as an integer. -/
theorem msb_sub_bne_ssubOverflow : ((d - v).msb != d.ssubOverflow v) = d.slt v := by
  have hd := toInt_word_bounds d
  have hv := toInt_word_bounds v
  have wraps := toInt_sub_wraps d v
  rw [BitVec.msb_eq_toInt, BitVec.slt_eq_decide, Bool.eq_iff_iff, bne_iff_ne, ne_eq, Bool.eq_iff_iff,
    ssubOverflow_iff, decide_eq_true_iff, decide_eq_true_iff]
  omega

end

-- ## The flags of an addition and of a subtraction

section
variable (f d v r : Word)

@[simp] theorem cf_flagsAdd : cf (flagsAdd f d v r) = r.ult d := cf_putFlags ..
@[simp] theorem zf_flagsAdd : zf (flagsAdd f d v r) = (r == 0) := zf_putFlags ..
@[simp] theorem sf_flagsAdd : sf (flagsAdd f d v r) = r.msb := sf_putFlags ..
theorem of_flagsAdd_add : of (flagsAdd f d v (d + v)) = d.saddOverflow v := by
  rw [BitVec.saddOverflow_eq]
  exact of_putFlags ..

@[simp] theorem cf_flagsSub : cf (flagsSub f d v r) = d.ult v := cf_putFlags ..
@[simp] theorem zf_flagsSub : zf (flagsSub f d v r) = (r == 0) := zf_putFlags ..
@[simp] theorem sf_flagsSub : sf (flagsSub f d v r) = r.msb := sf_putFlags ..
theorem of_flagsSub_sub : of (flagsSub f d v (d - v)) = d.ssubOverflow v := by
  rw [BitVec.ssubOverflow_eq]
  refine (of_putFlags ..).trans ?_
  cases d.msb <;> cases v.msb <;> cases (d - v).msb <;> rfl

-- INC keeps CF; the other flags are those of adding 1 (40_flag_module.md R99).
@[simp] theorem cf_flagsInc : cf (flagsInc f d r) = cf f := cf_putCf ..
@[simp] theorem zf_flagsInc : zf (flagsInc f d r) = (r == 0) := (zf_putCf ..).trans (zf_flagsAdd ..)
theorem of_flagsInc_add : of (flagsInc f d (d + 1)) = d.saddOverflow 1 :=
  (of_putCf ..).trans (of_flagsAdd_add ..)

-- DEC keeps CF; the other flags are those of subtracting 1 (R100).
@[simp] theorem cf_flagsDec : cf (flagsDec f d r) = cf f := cf_putCf ..
@[simp] theorem zf_flagsDec : zf (flagsDec f d r) = (r == 0) := (zf_putCf ..).trans (zf_flagsSub ..)
theorem of_flagsDec_sub : of (flagsDec f d (d - 1)) = d.ssubOverflow 1 :=
  (of_putCf ..).trans (of_flagsSub_sub ..)

-- NEG has a CF of its own; the other flags are those of subtracting from 0 (R101).
@[simp] theorem cf_flagsNeg : cf (flagsNeg f d r) = (d != 0) := cf_putCf ..
theorem of_flagsNeg_sub : of (flagsNeg f d (0 - d)) = BitVec.ssubOverflow 0 d :=
  (of_putCf ..).trans (of_flagsSub_sub ..)

end

-- ## Overflow at the ends of the signed range

section
variable (d : Word)

theorem saddOverflow_one_iff : d.saddOverflow 1 = true ↔ d = 0x7FFFFFFF := by
  have hd := toInt_word_bounds d
  have one : (1 : Word).toInt = 1 := rfl
  have greatest : (0x7FFFFFFF : Word).toInt = 2 ^ 31 - 1 := rfl
  rw [saddOverflow_iff, ← BitVec.toInt_inj, one, greatest]
  omega

theorem ssubOverflow_one_iff : d.ssubOverflow 1 = true ↔ d = 0x80000000 := by
  have hd := toInt_word_bounds d
  have one : (1 : Word).toInt = 1 := rfl
  have least : (0x80000000 : Word).toInt = -2 ^ 31 := rfl
  rw [ssubOverflow_iff, ← BitVec.toInt_inj, one, least]
  omega

theorem zero_ssubOverflow_iff : BitVec.ssubOverflow 0 d = true ↔ d = 0x80000000 := by
  have hd := toInt_word_bounds d
  have zero : (0 : Word).toInt = 0 := rfl
  have least : (0x80000000 : Word).toInt = -2 ^ 31 := rfl
  rw [ssubOverflow_iff, ← BitVec.toInt_inj, zero, least]
  omega

end

/-- Settles O12: carry and overflow are those of the words' unsigned and signed values. -/
theorem flagArithmetic : Obligations.FlagArithmetic := by
  unfold Obligations.FlagArithmetic
  intro f d v
  have incZero : d + 1 = 0 ↔ d = 0xFFFFFFFF := by bv_omega
  have decZero : d - 1 = 0 ↔ d = 1 := by bv_omega
  refine ⟨?addCarry, ?addOverflow, ?subCarry, ?subOverflow, cf_flagsInc .., ?incOverflow, ?incZero, cf_flagsDec ..,
    ?decOverflow, ?decZero, ?negCarry, ?negOverflow⟩
  case addCarry => rw [cf_flagsAdd, add_ult_left_iff]
  case addOverflow => rw [of_flagsAdd_add, saddOverflow_iff]
  case subCarry => rw [cf_flagsSub, BitVec.ult_iff_toNat_lt]
  case subOverflow => rw [of_flagsSub_sub, ssubOverflow_iff]
  case incOverflow => rw [of_flagsInc_add, saddOverflow_one_iff]
  case incZero => rw [zf_flagsInc, beq_iff_eq, incZero]
  case decOverflow => rw [of_flagsDec_sub, ssubOverflow_one_iff]
  case decZero => rw [zf_flagsDec, beq_iff_eq, decZero]
  case negCarry => rw [cf_flagsNeg, bne_iff_ne]
  case negOverflow => rw [of_flagsNeg_sub, zero_ssubOverflow_iff]

-- ## The conditions (40_flag_module.md R112)

section
variable (f d v : Word)

-- Five conditions are the opposites of five others.
theorem holds_ae_eq_not : holds .ae f = !holds .b f := rfl
theorem holds_ne_eq_not : holds .ne f = !holds .e f := rfl
theorem holds_a_eq_not : holds .a f = !holds .be f := (Bool.not_or ..).symm
theorem holds_ge_eq_not : holds .ge f = !holds .l f := (Bool.not_not _).symm
theorem holds_g_eq_not : holds .g f = !holds .le f := by
  show (!holds .e f && holds .ge f) = !(holds .e f || holds .l f)
  rw [holds_ge_eq_not, Bool.not_or]

theorem holds_b_compare : holds .b (flagsSub f d v (d - v)) = true ↔ d.toNat < v.toNat := by
  rw [holds, cf_flagsSub, BitVec.ult_iff_toNat_lt]

theorem holds_e_compare : holds .e (flagsSub f d v (d - v)) = true ↔ d = v := by
  have differenceZero : d - v = 0 ↔ d = v := by bv_omega
  rw [holds, zf_flagsSub, beq_iff_eq, differenceZero]

theorem holds_be_compare : holds .be (flagsSub f d v (d - v)) = true ↔ d.toNat ≤ v.toNat := by
  show (holds .b _ || holds .e _) = true ↔ _
  rw [Bool.or_eq_true, holds_b_compare, holds_e_compare, ← BitVec.toNat_inj, Nat.le_iff_lt_or_eq]

theorem holds_o_compare : holds .o (flagsSub f d v (d - v)) = true ↔ d.toInt - v.toInt ≠ (d - v).toInt := by
  rw [holds, of_flagsSub_sub, ssubOverflow_iff_toInt_ne]

theorem holds_s_compare : holds .s (flagsSub f d v (d - v)) = true ↔ (d - v).toInt < 0 := by
  rw [holds, sf_flagsSub, BitVec.msb_eq_toInt, decide_eq_true_iff]

theorem holds_l_compare : holds .l (flagsSub f d v (d - v)) = true ↔ d.toInt < v.toInt := by
  rw [holds, sf_flagsSub, of_flagsSub_sub, msb_sub_bne_ssubOverflow, BitVec.slt_iff_toInt_lt]

theorem holds_le_compare : holds .le (flagsSub f d v (d - v)) = true ↔ d.toInt ≤ v.toInt := by
  show (holds .e _ || holds .l _) = true ↔ _
  rw [Bool.or_eq_true, holds_e_compare, holds_l_compare, ← BitVec.toInt_inj, Int.le_iff_eq_or_lt]

end

/-- Settles O13: each comparison by its own flags, and the opposite conditions by negation. -/
theorem conditionsAfterCompare : Obligations.ConditionsAfterCompare := by
  unfold Obligations.ConditionsAfterCompare
  refine ⟨fun f => ⟨rfl, rfl, rfl, rfl, rfl, rfl, rfl, rfl, rfl, rfl, rfl, rfl, rfl, rfl, rfl, rfl⟩, fun f d v => ?_⟩
  dsimp only
  rw [holds_ae_eq_not, holds_ne_eq_not, holds_a_eq_not, holds_ge_eq_not, holds_g_eq_not]
  simp only [Bool.not_eq_true', ← Bool.not_eq_true, holds_b_compare, holds_e_compare, holds_be_compare,
    holds_o_compare, holds_s_compare, holds_l_compare, holds_le_compare, Nat.not_lt, Nat.not_le, Int.not_lt,
    Int.not_le, ne_eq, and_self]

end Sys2Proof.Machine
end

section
/-! # The 8-bit forms

An 8-bit form works on the low byte of each operand, writes one byte of a register, and sets the flags by the table of
40_flag_module.md R111. -/

namespace Sys2Proof.Machine

-- ## The table of flags

/-- The table of 40_flag_module.md R111, of the two bytes and the result: the entries it leaves open are free. -/
def byteRules : ByteOp → Byte → Byte → Byte → FlagRules
  | .add, _, _, _ => ⟨.free, .free, .free, .free⟩
  | .sub, a, b, _ => ⟨.is (decide (a.toNat < b.toNat)), .is (a == b), .free, .free⟩
  | .inc, _, _, _ => ⟨.kept, .free, .free, .free⟩
  | .dec, a, _, _ => ⟨.kept, .is (a == 1), .free, .free⟩
  | .neg, a, _, _ => ⟨.is (a != 0), .is (a == 0), .free, .free⟩
  | .logic, _, _, r => ⟨.is false, .is (r == 0), .free, .is false⟩

theorem flagsByte_obeys_byteRules (op : ByteOp) (f : Word) (a b r : Byte) (xc xz xs xo : Bool) :
    FlagsObey (byteRules op a b r) f (flagsByte op f a b r xc xz xs xo) := by
  cases op with
  | add => exact putFlags_obeys trivial trivial trivial trivial
  | sub => exact putFlags_obeys rfl rfl trivial trivial
  | inc => exact putFlags_obeys rfl trivial trivial trivial
  | dec => exact putFlags_obeys rfl rfl trivial trivial
  | neg => exact putFlags_obeys rfl rfl trivial trivial
  | logic => exact putFlags_obeys rfl rfl trivial rfl

-- ## Storing a byte

/-- A byte extended to a word is its low byte. -/
theorem setWidth_byte_word (b : Byte) : (b.setWidth 32).setWidth 8 = b := by
  rw [BitVec.setWidth_setWidth_of_le _ (by decide), BitVec.setWidth_eq]

section
variable (s : State) (r : Reg8)

theorem stored_setReg8 (b : Byte) : Stored s (.reg8 r) (b.setWidth 32) (setReg8 s r b) := by
  refine ⟨?_, fun i hi => getLsbD_setReg8 s r b hi, fun p hp => ?_, SameMemory.of_eq rfl rfl rfl⟩
  · rw [getReg8_setReg8_same, setWidth_byte_word]
  · exact getReg_setReg8_other s b (List.ne_of_not_mem_cons hp)

/-- A register that keeps its byte stores that byte. -/
theorem stored_reg8_self : Stored s (.reg8 r) ((getReg8 s r).setWidth 32) s :=
  ⟨(setWidth_byte_word _).symm, fun _ _ => rfl, fun _ _ => rfl, SameMemory.refl s⟩

@[simp] theorem setWidth_peek_reg8 : (peek s (.reg8 r)).setWidth 8 = getReg8 s r := setWidth_byte_word _

end

/-- An 8-bit form that changes registers alone before it sets the flags completes, and obeys the table. -/
theorem byteForm_completes {s : State} {regs : Regs} {dst : Operand} {v : Word}
    (stored : Stored s dst v { s with regs := regs }) (op : ByteOp) (a b r : Byte) :
    ∃ t, finish (advance (.done () (setByteFlags { s with regs := regs } op a b r))) = .next t ∧ Stored s dst v t ∧
      FlagsObey (byteRules op a b r) s.flags t.flags ∧ SameKeyboard s t ∧ FellThrough s t :=
  ⟨_, rfl, stored.congr rfl rfl rfl rfl, flagsByte_obeys_byteRules .., ⟨rfl, rfl, rfl⟩,
    rfl, by constructor <;> rfl⟩

-- ## The shared frames in their 8-bit forms

theorem formBinary_reg8_narrow {r : Reg8} {src : Operand} (h : binaryForm [.reg8 r, src] = true) :
    formBinary (.reg8 r) src = .narrow := by
  cases src with
  | reg8 q => rfl
  | imm v => exact if_pos (of_decide_eq_true h)
  | _ => cases h

/-- The low byte of the result is a function of the low bytes of the operands. -/
def OnLowByte (f : Word → Word → Word) (g : Byte → Byte → Byte) : Prop :=
  ∀ d v, (f d v).setWidth 8 = g (d.setWidth 8) (v.setWidth 8)

theorem OnLowByte.of_operands {f : Word → Word → Word} {g : Byte → Byte → Byte} (low : OnLowByte f g) (s : State)
    (r : Reg8) (src : Operand) :
    (f (peek s (.reg8 r)) (peek s src)).setWidth 8 = g (getReg8 s r) (sourceByte s src) := by
  rw [low, setWidth_peek_reg8, sourceByte]

section
variable {mk : List Operand → Instr} {m : Mnemonic} {fl : Word → Word → Word → Word → Word}
  {f : Word → Word → Word} {g : Byte → Byte → Byte}

theorem binaryOp_byteResult (op : ByteOp) (hx : ∀ ops s, exec (mk ops) s = finish (advance (binaryOp m f fl op ops s)))
    (hwf : ∀ ops, (mk ops).wf = binaryForm ops) (low : OnLowByte f g) : ByteResult mk true g (byteRules op) := by
  intro s r src h
  rw [hx, binaryOp_narrow (formBinary_reg8_narrow (hwf _ ▸ h)), setWidth_peek_reg8, poke, low.of_operands]
  exact byteForm_completes (stored_setReg8 s r _) op ..

theorem compareOp_byteResult (op : ByteOp) (hx : ∀ ops s, exec (mk ops) s = finish (advance (compareOp m f fl op ops s)))
    (hwf : ∀ ops, (mk ops).wf = binaryForm ops) (low : OnLowByte f g) : ByteResult mk false g (byteRules op) := by
  intro s r src h
  rw [hx, compareOp_narrow (formBinary_reg8_narrow (hwf _ ▸ h)), setWidth_peek_reg8, low.of_operands]
  exact byteForm_completes (stored_reg8_self s r) op ..

theorem unaryOp_byteUnary (op : ByteOp) (b : Byte) {f : Word → Word} {fl : Word → Word → Word → Word}
    {g : Byte → Byte} (hx : ∀ ops s, exec (mk ops) s = finish (advance (unaryOp m f fl op b ops s)))
    (low : ∀ d, (f d).setWidth 8 = g (d.setWidth 8)) : ByteUnary mk g fun a => byteRules op a b (g a) := by
  intro s r
  have result : (f (peek s (.reg8 r))).setWidth 8 = g (getReg8 s r) := by rw [low, setWidth_peek_reg8]
  rw [hx, unaryOp_narrow, poke, result]
  exact byteForm_completes (stored_setReg8 s r _) op ..

end

-- ## The results in integers

section
variable {w : Nat} (a b : BitVec w)

theorem ofNat_toNat_add : BitVec.ofNat w (a.toNat + b.toNat) = a + b := by
  rw [BitVec.ofNat_add, BitVec.ofNat_toNat, BitVec.ofNat_toNat, BitVec.setWidth_eq, BitVec.setWidth_eq]

theorem ofInt_neg_toNat : BitVec.ofInt w (-a.toNat) = -a := by
  rw [BitVec.ofInt_neg, BitVec.ofInt_natCast, BitVec.ofNat_toNat, BitVec.setWidth_eq]

theorem ofInt_toNat_sub : BitVec.ofInt w (a.toNat - b.toNat) = a - b := by
  rw [Int.sub_eq_add_neg, BitVec.ofInt_add, ofInt_neg_toNat, BitVec.ofInt_natCast, BitVec.ofNat_toNat,
    BitVec.setWidth_eq, BitVec.sub_eq_add_neg]

end

theorem add_onLowByte : OnLowByte (fun d v => d + v) fun a b => BitVec.ofNat 8 (a.toNat + b.toNat) := fun d v =>
  calc (d + v).setWidth 8
    _ = d.setWidth 8 + v.setWidth 8 := BitVec.setWidth_add d v (by decide)
    _ = _ := (ofNat_toNat_add _ _).symm

theorem sub_onLowByte : OnLowByte (fun d v => d - v) fun a b => BitVec.ofInt 8 (a.toNat - b.toNat) := fun d v =>
  calc (d - v).setWidth 8
    _ = d.setWidth 8 + -v.setWidth 8 := by
      rw [BitVec.sub_eq_add_neg, BitVec.setWidth_add _ _ (by decide), BitVec.setWidth_neg_of_le (by decide)]
    _ = _ := by rw [← BitVec.sub_eq_add_neg, ← ofInt_toNat_sub]

theorem and_onLowByte : OnLowByte (fun d v => d &&& v) fun a b => a &&& b := fun _ _ => BitVec.setWidth_and
theorem or_onLowByte : OnLowByte (fun d v => d ||| v) fun a b => a ||| b := fun _ _ => BitVec.setWidth_or
theorem xor_onLowByte : OnLowByte (fun d v => d ^^^ v) fun a b => a ^^^ b := fun _ _ => BitVec.setWidth_xor

section
variable (d : Word)

theorem setWidth_add_one : (d + 1).setWidth 8 = BitVec.ofNat 8 ((d.setWidth 8).toNat + 1) := add_onLowByte d 1

theorem setWidth_sub_one : (d - 1).setWidth 8 = BitVec.ofInt 8 ((d.setWidth 8).toNat - 1) := sub_onLowByte d 1

theorem setWidth_zero_sub : (0 - d).setWidth 8 = BitVec.ofInt 8 (-(d.setWidth 8).toNat) := by
  rw [zero_sub, BitVec.setWidth_neg_of_le (by decide), ofInt_neg_toNat]

end

/-- Settles O43: each instruction is a shared frame whose result depends on the low bytes alone. -/
theorem byteForms : Obligations.ByteForms := by
  unfold Obligations.ByteForms
  exact ⟨binaryOp_byteResult .add (fun _ _ => rfl) (fun _ => rfl) add_onLowByte,
    binaryOp_byteResult .sub (fun _ _ => rfl) (fun _ => rfl) sub_onLowByte,
    compareOp_byteResult .sub (fun _ _ => rfl) (fun _ => rfl) sub_onLowByte,
    binaryOp_byteResult .logic (fun _ _ => rfl) (fun _ => rfl) and_onLowByte,
    binaryOp_byteResult .logic (fun _ _ => rfl) (fun _ => rfl) or_onLowByte,
    binaryOp_byteResult .logic (fun _ _ => rfl) (fun _ => rfl) xor_onLowByte,
    compareOp_byteResult .logic (fun _ _ => rfl) (fun _ => rfl) and_onLowByte,
    unaryOp_byteUnary .inc 1 (fun _ _ => rfl) setWidth_add_one,
    unaryOp_byteUnary .dec 1 (fun _ _ => rfl) setWidth_sub_one,
    unaryOp_byteUnary .neg 0 (fun _ _ => rfl) setWidth_zero_sub⟩

end Sys2Proof.Machine
end

section
/-! # Shifts and rotates by a multiple of 32 (40_flag_module.md R102) -/

namespace Sys2Proof.Machine

theorem formShift_of_shiftForm {dst count : Operand} (h : shiftForm [dst, count] = true) :
    formShift dst count = .wide := by
  cases dst <;> cases count <;> simp_all [shiftForm, formShift]

theorem mmioOperand_eq_false_iff {s : State} {dst : Operand} :
    mmioOperand s dst = false ↔ ∀ m, dst = .mem m → isMmio s.cfg (ea s m).toNat = false := by
  cases dst <;> simp [mmioOperand]

/-- The seven shifts and rotates have one form table and one frame. -/
theorem shiftOp_of_mem_shifts {mk : List Operand → Instr} (h : mk ∈ shifts) :
    (∀ ops, (mk ops).wf = shiftForm ops) ∧
      ∃ m f fl, ∀ ops s, exec (mk ops) s = finish (advance (shiftOp m f fl ops s)) := by
  simp only [shifts, List.mem_cons, List.not_mem_nil, or_false] at h
  obtain rfl | rfl | rfl | rfl | rfl | rfl | rfl := h
  all_goals exact ⟨fun _ => rfl, _, _, _, fun _ _ => rfl⟩

/-- Settles O48: the shared frame ends before it reads the destination. -/
theorem zeroCounts : Obligations.ZeroCounts := by
  unfold Obligations.ZeroCounts
  intro mk hmk s dst count hwf hc
  obtain ⟨wf_eq, m, f, fl, exec_eq⟩ := shiftOp_of_mem_shifts hmk
  rw [exec_eq, shiftOp_zero (formShift_of_shiftForm (wf_eq _ ▸ hwf)) hc]
  refine ⟨fun ordinary => ?_, ?_⟩
  · rw [mmioOperand_eq_false_iff.mpr ordinary]
    rfl
  · rintro shape rfl device
    rw [mmioOperand, if_pos device]
    rfl

end Sys2Proof.Machine
end

section
/-! # Falling through

An instruction outside the control flow that completes falls through to the next index, and its footprint says what it
left alone. -/

namespace Sys2Proof.Machine

/-- The mnemonics of the instructions that go to the next index and never halt. -/
def quiet (m : Mnemonic) : Bool := !controlMnemonics.contains m && !mayHalt m

theorem quiet_iff {m : Mnemonic} : quiet m = true ↔ m ∉ controlMnemonics ∧ mayHalt m = false := by
  simp [quiet]

/-- A handler whose footprint has neither the console nor `halted` leaves the control state alone. -/
theorem Evolves.fellThrough {fp : Footprint} {s u : State} (h : Evolves fp s u) (hc : fp.console = false)
    (hh : fp.halted = false) : FellThrough s (setPc u (s.pc + 1)) := by
  obtain ⟨hcfg, hmode, hrunning, hbankB, hbps, hprog, hlabels⟩ := h.sameHostFields
  have hreport : u.report = s.report := by rw [h.dataOnly]
  exact ⟨rfl, hcfg, h.cs, h.halted hh, h.faulted, hrunning, hmode, hbankB, h.console hc, hbps, hprog, hlabels, hreport⟩

/-- What a quiet instruction does is what its handler does, and the next index. -/
theorem exec_of_quiet {i : Instr} (hi : quiet i.mnemonic = true) {s u : State} (h : handler i s = .done () u) :
    exec i s = .next (setPc u (s.pc + 1)) ∧ FellThrough s (setPc u (s.pc + 1)) := by
  obtain ⟨hcontrol, hhalt⟩ := quiet_iff.mp hi
  have within : Evolves (footprint i) s u := (handler_ends i s).of_done h
  have console : (footprint i).console = false := beq_eq_false_iff_ne.mpr fun e => by rw [e] at hhalt; cases hhalt
  exact ⟨by rw [exec_eq_advance hcontrol, h, advance_done, finish_done, within.pc], within.fellThrough console hhalt⟩

end Sys2Proof.Machine
end

section
/-! # Moves

MOV and the sixteen CMOVcc (41_data_movement.md R113 to R131): one value read, one written. -/

namespace Sys2Proof.Machine

-- ## MOV

theorem formMov_of_movForm {dst src : Operand} (h : movForm [dst, src] = true) : formMov dst src = .wide := by
  cases dst <;> cases src <;> simp_all [movForm, formMov]

theorem bothMem_eq_isMem (dst src : Operand) : bothMem dst src = (dst.isMem && src.isMem) := by
  cases dst <;> cases src <;> rfl

/-- MOV in an admitted form, where its accesses complete and the mode lets it (41_data_movement.md R113, R114). -/
theorem handleMov_wide {s : State} {dst src : Operand} (hf : formMov dst src = .wide)
    (hm : (bothMem dst src && s.mode == .strict) = false) (hs : readOk s src = true) (hw : writeOk s dst = true) :
    handleMov [dst, src] s = .done () (poke (touch s src) dst (peek s src)) := by
  obtain ⟨ha, hb⟩ := formMov_resolved (a := dst) (b := src) (by rw [hf]; rfl)
  rw [handleMov, operands2_resolved ha hb, hf]
  dsimp only [Form.check]
  rw [hm, if_neg Bool.false_ne_true, readOp_of_ok hs, Run.bind_done, writeOp_of_ok (by rwa [writeOk_touch])]

/-- Writing after a read stores the value in the sense of Safety.lean. -/
theorem stored_poke_touch {s : State} (hs : Invariant s) (src : Operand) {dst : Operand} (hw : writeOk s dst = true)
    (v : Word) : Stored (touch s src) dst v (poke (touch s src) dst v) := by
  obtain ⟨-, ⟨hbankA, -⟩, -, ⟨hpixels, -⟩, -⟩ := hs
  exact stored_poke (by rwa [touch_bankA]) (by rwa [touch_pixels]) (by rwa [writeOk_touch]) v

/-- Settles O33: the handler writes what it read, and the instruction falls through. -/
theorem movCopies : Obligations.MovCopies := by
  unfold Obligations.MovCopies
  intro s dst src hs hwf hmode hread hwrite
  have done : handler (.mov [dst, src]) s = .done () (poke (touch s src) dst (peek s src)) :=
    handleMov_wide (formMov_of_movForm hwf) (by rwa [bothMem_eq_isMem]) hread hwrite
  obtain ⟨executed, fell⟩ := exec_of_quiet rfl done
  exact ⟨_, executed, (stored_poke_touch hs src hwrite _).congr rfl rfl rfl rfl,
    ((handler_ends _ s).of_done done).flags rfl, ⟨poke_kq .., poke_lastCode .., poke_lastState ..⟩, fell⟩

/-- Two memory operands in strict mode are an error of the handler (41_data_movement.md R114). -/
theorem handleMov_strict {s : State} (h : s.mode = .strict) (dst src : MemShape) :
    handleMov [.mem dst, .mem src] s = .raised .modePolicyError s := by
  simp [handleMov, operands2, Machine.resolved, formMov, Form.check, bothMem, h]

/-- Settles O34: in strict mode the early fault keeps the data; teaching mode is O33 for this form. -/
theorem movMemoryToMemory : Obligations.MovMemoryToMemory := by
  unfold Obligations.MovMemoryToMemory
  refine fun s dst src => ⟨fun strict => ?_, fun teaching hs hread hwrite => ?_⟩
  · refine ⟨takeFault .modePolicyError s, ?_, rfl, rfl, rfl, fun _ _ => rfl, .of_eq rfl rfl rfl, ⟨rfl, rfl, rfl⟩⟩
    show finish (advance (handleMov [.mem dst, .mem src] s)) = _
    rw [handleMov_strict strict, advance_raised, finish_raised]
  · obtain ⟨t, executed, ⟨regs, stored⟩, flags, -, fell⟩ :=
      movCopies s (.mem dst) (.mem src) hs rfl (by rw [teaching]; rfl) hread hwrite
    rw [ea_touch] at stored
    exact ⟨t, executed, stored, fun r hr => (regs r hr).trans (getReg_touch ..), flags, fell⟩

-- ## CMOVcc

/-- The sixteen CMOVcc have one form table and one handler. -/
theorem cmov_of_mem_cmovs {p : Cond × (List Operand → Instr)} (h : p ∈ cmovs) :
    (∀ ops, (p.2 ops).wf = cmovForm ops) ∧ (∀ ops, quiet (p.2 ops).mnemonic = true) ∧
      ∃ m, ∀ ops s, handler (p.2 ops) s = cmov m p.1 ops s := by
  simp only [cmovs, List.mem_cons, List.not_mem_nil, or_false] at h
  obtain rfl | rfl | rfl | rfl | rfl | rfl | rfl | rfl | rfl | rfl | rfl | rfl | rfl | rfl | rfl | rfl := h
  all_goals exact ⟨fun _ => rfl, fun _ => rfl, _, fun _ _ => rfl⟩

section
variable {s : State} {dst src : Operand}

theorem formCmov_of_reg32 {r : Reg32} (h : cmovForm [.reg32 r, src] = true)
    (hm : ∀ m, src = .mem m → isMmio s.cfg (ea s m).toNat = false) : formCmov s (.reg32 r) src = .wide := by
  cases src with
  | reg32 q => rfl
  | mem m => simp [formCmov, hm m rfl]
  | _ => cases h

theorem formCmov_of_ignored (hdst : (∃ v, dst = .imm v) ∨ ∃ m, dst = .mem m) (h : cmovForm [dst, src] = true)
    (hm : ∀ m, src = .mem m → isMmio s.cfg (ea s m).toNat = false) : formCmov s dst src = .noop := by
  obtain ⟨v, rfl⟩ | ⟨m, rfl⟩ := hdst
  · cases src with
    | reg32 q => rfl
    | mem m => simp [formCmov, hm m rfl]
    | _ => cases h
  · cases src with
    | reg32 q => rfl
    | _ => cases h

theorem formCmov_of_reg8 (h : (dst.isReg8 || src.isReg8) = true) : formCmov s dst src = .byteOnly := by
  cases dst with
  | reg8 r => rfl
  | _ =>
    cases src with
    | reg8 r => rfl
    | _ => cases h

theorem formCmov_of_source (h8 : dst.isReg8 = false)
    (hsrc : (∃ v, src = .imm v) ∨ ∃ m, src = .mem m ∧ isMmio s.cfg (ea s m).toNat = true) :
    formCmov s dst src = .never := by
  obtain ⟨v, rfl⟩ | ⟨m, rfl, hm⟩ := hsrc
  · cases dst with
    | reg8 r => cases h8
    | _ => rfl
  · cases dst with
    | reg8 r => cases h8
    | reg32 r | imm v => exact if_pos hm
    | _ => rfl

theorem touch_of_ordinary (hm : ∀ m, src = .mem m → isMmio s.cfg (ea s m).toNat = false) : touch s src = s := by
  cases src with
  | mem m => exact memTouch_of_not_mmio (hm m rfl)
  | _ => rfl

/-- A CMOVcc that may move: the source is read when the condition holds, and from ordinary memory or a register that
changes nothing (41_data_movement.md R115). -/
theorem cmov_wide {m : Mnemonic} {c : Cond} {r : Reg32} (hf : formCmov s (.reg32 r) src = .wide)
    (hb : src.resolved = true) (ht : touch s src = s) (hs : holds c s.flags = true → readOk s src = true) :
    cmov m c [.reg32 r, src] s =
      .done () { s with regs := if holds c s.flags then s.regs.set r (peek s src) else s.regs } := by
  rw [cmov, operands2_resolved rfl hb, hf]
  dsimp only [Form.check]
  split
  · next hc => rw [readOp_of_ok (hs hc), Run.bind_done, ht]; rfl
  · rfl

/-- A CMOVcc with resolved operands goes by its form, with one body for both widths. -/
theorem cmov_of_form {m : Mnemonic} {c : Cond} {f : Form} (ha : dst.resolved = true) (hb : src.resolved = true)
    (hf : formCmov s dst src = f) : ∃ move, cmov m c [dst, src] s = f.check s move move :=
  ⟨_, by rw [cmov, operands2_resolved ha hb, hf]⟩

end

/-- Settles O35: the form decides between the move, nothing, and each refusal. -/
theorem conditionalMoves : Obligations.ConditionalMoves := by
  unfold Obligations.ConditionalMoves
  intro p hp s src
  obtain ⟨wf_eq, quiets, m, handler_eq⟩ := cmov_of_mem_cmovs hp
  have resolved {dst : Operand} (hwf : cmovForm [dst, src] = true) : dst.resolved = true ∧ src.resolved = true := by
    simpa using cmovForm_resolved hwf
  have refused {dst : Operand} {r : Refusal} (ha : dst.resolved = true) (hb : src.resolved = true)
      (hf : formCmov s dst src = .reject r) : exec (p.2 [dst, src]) s = .refused r := by
    obtain ⟨move, hmove⟩ := cmov_of_form (m := m) (c := p.1) ha hb hf
    exact exec_of_handler_refused ((handler_eq _ s).trans hmove)
  simp only [wf_eq]
  refine ⟨fun r hwf ordinary hread => ?_, fun dst hdst hwf ordinary => ?_, fun dst ha hb h8 => ?_, ?_, ?_⟩
  · have form := formCmov_of_reg32 hwf ordinary
    have done := (handler_eq _ s).trans (cmov_wide form (resolved hwf).2 (touch_of_ordinary ordinary) hread)
    obtain ⟨executed, fell⟩ := exec_of_quiet (quiets _) done
    refine ⟨_, executed, ?_, fun q hq => ?_, .of_eq rfl rfl rfl, rfl, ⟨rfl, rfl, rfl⟩, fell⟩
    · rw [getReg_setPc, getReg]
      split
      · exact Regs.get_set_same ..
      · rfl
    · rw [getReg_setPc, getReg]
      split
      · exact Regs.get_set_other _ _ _ _ (List.ne_of_not_mem_cons hq)
      · rfl
  · obtain ⟨ha, hb⟩ := resolved hwf
    obtain ⟨move, hmove⟩ := cmov_of_form (m := m) (c := p.1) ha hb (formCmov_of_ignored hdst hwf ordinary)
    exact (exec_of_quiet (quiets _) ((handler_eq _ s).trans hmove)).1
  · exact refused ha hb (formCmov_of_reg8 h8)
  · rintro m m2 rfl
    exact refused rfl rfl rfl
  · intro dst ha h8 hsrc
    have hb : src.resolved = true := by obtain ⟨v, rfl⟩ | ⟨m, rfl, -⟩ := hsrc <;> rfl
    exact refused ha hb (formCmov_of_source h8 hsrc)

end Sys2Proof.Machine
end

section
/-! # The stack

PUSH and POP (41_data_movement.md R132, R133): one access at the stack pointer, and one of the operand. -/

namespace Sys2Proof.Machine

-- ## Ordinary memory

/-- A word stored outside the devices reads back (20_memory.md R51). -/
theorem StoredAt.memPeek_word {s t : State} {a v : Word} (h : StoredAt s a 4 v t) (hc : t.cfg = s.cfg)
    (hm : isMmio s.cfg a.toNat = false) : memPeek t a 4 = v := by
  obtain ⟨bytes, -⟩ := h.of_not_mmio hm
  have b0 : bankByte t a.toNat = v.extractLsb' 0 8 := bytes 0 (by decide)
  have b1 := bytes 1 (by decide)
  have b2 := bytes 2 (by decide)
  have b3 := bytes 3 (by decide)
  calc memPeek t a 4 = loadBytes t a.toNat 4 := memPeek_of_not_mmio (by rwa [hc]) 4
    _ = v.extractLsb' 24 8 ++ v.extractLsb' 16 8 ++ v.extractLsb' 8 8 ++ v.extractLsb' 0 8 := by
      rw [loadBytes_four, b3, b2, b1, b0]
    _ = v := append_extract_bytes v

theorem memWriteOk_congr {s t : State} (hc : t.cfg = s.cfg) (a : Word) (n : Nat) :
    memWriteOk t a n = memWriteOk s a n := by rw [memWriteOk, memWriteOk, hc]

/-- Where a write completes, so does a read. -/
theorem memReadOk_of_memWriteOk {s : State} {a : Word} {n : Nat} (h : memWriteOk s a n = true) :
    memReadOk s a n = true := by
  rw [memReadOk, not_mixed_of_writeOk h]
  rfl

-- ## The handlers

theorem formPush_of_pushForm {src : Operand} (h : pushForm [src] = true) :
    src.resolved = true ∧ formPush src = .wide := by
  cases src with
  | reg32 r | imm v | mem m => exact ⟨rfl, rfl⟩
  | _ => cases h

/-- The state after PUSH of a value that was read already (41_data_movement.md R132). -/
def pushed (s : State) (v : Word) : State :=
  memPoke (setReg s .esp (getReg s .esp - 4)) (getReg s .esp - 4) 4 v

theorem handlePush_wide {s : State} {src : Operand} (hwf : pushForm [src] = true) (hread : readOk s src = true)
    (hw : memWriteOk s (getReg s .esp - 4) 4 = true) :
    handlePush [src] s = .done () (pushed (touch s src) (peek s src)) := by
  obtain ⟨hb, hf⟩ := formPush_of_pushForm hwf
  have hw' : memWriteOk (setReg (touch s src) .esp (getReg s .esp - 4)) (getReg s .esp - 4) 4 = true :=
    (memWriteOk_congr (touch_cfg s src) _ 4).trans hw
  rw [handlePush, operands1_resolved hb, hf]
  dsimp only [Form.check]
  rw [readOp_of_ok hread, Run.bind_done, pushed, getReg_touch, memWrite_of_ok hw']

/-- The state after POP, before its destination is written (41_data_movement.md R133). -/
def popped (s : State) : State := setReg (memTouch s (getReg s .esp)) .esp (getReg s .esp + 4)

theorem ea_popped (s : State) (m : MemShape) : ea (popped s) m = ea (setReg s .esp (getReg s .esp + 4)) m :=
  ea_congr (by simp [popped]) m

theorem handlePop_wide {s : State} {dst : Operand} (hf : formRegMem dst = .wide)
    (hread : memReadOk s (getReg s .esp) 4 = true) (hw : writeOk (popped s) dst = true) :
    handlePop [dst] s = .done () (poke (popped s) dst (memPeek s (getReg s .esp) 4)) := by
  rw [handlePop, operands1_resolved (formRegMem_resolved (by rw [hf]; rfl)), hf]
  dsimp only [Form.check]
  rw [memRead_of_ok hread, Run.bind_done, getReg_memTouch]
  exact writeOp_of_ok hw _

-- ## What they do

section
variable {s : State}

theorem push_completes {src : Operand} (hs : Invariant s) (hwf : pushForm [src] = true)
    (hread : readOk s src = true) (hw : memWriteOk s (getReg s .esp - 4) 4 = true) :
    ∃ t, exec (.push [src]) s = .next t ∧ getReg t .esp = getReg s .esp - 4 ∧ RegsBut [.esp] s t ∧
      StoredAt (touch s src) (getReg s .esp - 4) 4 (peek s src) t ∧ t.flags = s.flags ∧
      SameKeyboard (touch s src) t ∧ FellThrough s t := by
  obtain ⟨-, ⟨hbankA, -⟩, -, ⟨hpixels, -⟩, -⟩ := hs
  have done : handler (.push [src]) s = .done () (pushed (touch s src) (peek s src)) := handlePush_wide hwf hread hw
  have within := (handler_ends _ s).of_done done
  obtain ⟨executed, fell⟩ := exec_of_quiet rfl done
  refine ⟨_, executed, ?_, within.regsBut, ?_, within.flags rfl, ?_, fell⟩
  · rw [getReg_setPc, pushed, getReg_memPoke, getReg_setReg_same, getReg_touch]
  · have stored : StoredAt (setReg (touch s src) .esp (getReg s .esp - 4)) (getReg s .esp - 4) 4 (peek s src) _ :=
      storedAt_memPoke (by simpa using hbankA) (by simpa using hpixels)
        ((memWriteOk_congr (touch_cfg s src) _ 4).trans hw)
    rw [pushed, getReg_touch]
    exact stored.congr rfl rfl rfl rfl rfl rfl
  · exact ⟨memPoke_kq .., memPoke_lastCode .., memPoke_lastState ..⟩

theorem popReg_completes (r : Reg32) (hread : memReadOk s (getReg s .esp) 4 = true) :
    ∃ t, exec (.pop [.reg32 r]) s = .next t ∧ getReg t r = memPeek s (getReg s .esp) 4 ∧
      (r ≠ .esp → getReg t .esp = getReg s .esp + 4) ∧ RegsBut [.esp, r] s t ∧ SameMemory s t ∧ t.flags = s.flags ∧
      SameKeyboard (memTouch s (getReg s .esp)) t ∧ FellThrough s t := by
  have done : handler (.pop [.reg32 r]) s = .done () (setReg (popped s) r (memPeek s (getReg s .esp) 4)) :=
    handlePop_wide rfl hread rfl
  have within := (handler_ends _ s).of_done done
  obtain ⟨executed, fell⟩ := exec_of_quiet rfl done
  refine ⟨_, executed, getReg_setReg_same .., fun hr => ?_, within.regsBut, ?_, within.flags rfl, ⟨rfl, rfl, rfl⟩, fell⟩
  · rw [getReg_setPc, getReg_setReg_other _ _ _ _ hr.symm, popped, getReg_setReg_same]
  · exact (memTouch_sameMemory s _).trans (.of_eq rfl rfl rfl)

theorem popMem_completes (m : MemShape) (hs : Invariant s) (hread : memReadOk s (getReg s .esp) 4 = true)
    (hw : memWriteOk s (ea (popped s) m) 4 = true) :
    ∃ t, exec (.pop [.mem m]) s = .next t ∧ getReg t .esp = getReg s .esp + 4 ∧ RegsBut [.esp] s t ∧
      StoredAt (memTouch s (getReg s .esp)) (ea (popped s) m) 4 (memPeek s (getReg s .esp) 4) t ∧ t.flags = s.flags ∧
      SameKeyboard (memTouch s (getReg s .esp)) t ∧ FellThrough s t := by
  obtain ⟨-, ⟨hbankA, -⟩, -, ⟨hpixels, -⟩, -⟩ := hs
  have hw' : memWriteOk (popped s) (ea (popped s) m) 4 = true := (memWriteOk_congr (memTouch_cfg s _) _ 4).trans hw
  have done : handler (.pop [.mem m]) s =
      .done () (memPoke (popped s) (ea (popped s) m) 4 (memPeek s (getReg s .esp) 4)) :=
    handlePop_wide rfl hread hw'
  have within := (handler_ends _ s).of_done done
  obtain ⟨executed, fell⟩ := exec_of_quiet rfl done
  have stored : StoredAt (popped s) (ea (popped s) m) 4 (memPeek s (getReg s .esp) 4) _ :=
    storedAt_memPoke (by simpa [popped] using hbankA) (by simpa [popped] using hpixels) hw'
  refine ⟨_, executed, ?_, within.regsBut, stored.congr rfl rfl rfl rfl rfl rfl, within.flags rfl,
    ⟨memPoke_kq .., memPoke_lastCode .., memPoke_lastState ..⟩, fell⟩
  rw [getReg_setPc, getReg_memPoke, popped, getReg_setReg_same]

end

/-- Settles O36: by form, from what each handler leaves. -/
theorem stackInstructions : Obligations.StackInstructions := by
  unfold Obligations.StackInstructions
  refine ⟨fun s src hs hwf hread hw => push_completes hs hwf hread hw, fun s r hread => popReg_completes r hread,
    fun s m hs hread => ?_⟩
  rw [← ea_popped]
  exact popMem_completes m hs hread

/-- Settles O37: POP reads the word that PUSH stored, and adds the 4 that PUSH subtracted. -/
theorem pushThenPop : Obligations.PushThenPop := by
  unfold Obligations.PushThenPop
  intro s r r2 hs hr2 hm hw
  obtain ⟨t, push, esp, regs, stored, -, -, fell⟩ := push_completes (src := .reg32 r) hs rfl rfl hw
  have word : memPeek t (getReg t .esp) 4 = getReg s r := by rw [esp]; exact stored.memPeek_word fell.control.cfg hm
  have hread : memReadOk t (getReg t .esp) 4 = true := by
    rw [esp]
    exact memReadOk_of_memWriteOk ((memWriteOk_congr fell.control.cfg _ 4).trans hw)
  obtain ⟨u, pop, value, esp', regs', -, -, -, fell'⟩ := popReg_completes r2 hread
  have restored : getReg u .esp = getReg s .esp := by rw [esp' hr2, esp, BitVec.sub_add_cancel]
  refine ⟨t, u, push, pop, value.trans word, restored, fun q hq => ?_, by rw [fell'.pc, fell.pc]⟩
  by_cases he : q = .esp
  · rw [he, restored]
  · rw [regs' q (by simp_all), regs q (by simpa using he)]

end Sys2Proof.Machine
end

section
/-! # Flags and bytes

LAHF, SAHF and BSWAP (41_data_movement.md R134 to R136). -/

namespace Sys2Proof.Machine

-- ## The bits that LAHF and SAHF transfer

section
variable (f : Word)

theorem toNat_lahfByte : (lahfByte f).toNat = (sf f).toNat * 128 + (zf f).toNat * 64 + 2 + (cf f).toNat := by
  unfold lahfByte
  cases sf f <;> cases zf f <;> cases cf f <;> rfl

theorem getLsbD_lahfByte :
    (lahfByte f).getLsbD 0 = cf f ∧ (lahfByte f).getLsbD 6 = zf f ∧ (lahfByte f).getLsbD 7 = sf f := by
  unfold lahfByte
  cases sf f <;> cases zf f <;> cases cf f <;> decide

theorem putFlag_self {i : Nat} (hi : i < 32) : putFlag f i (f.getLsbD i) = f := by
  refine BitVec.eq_of_getLsbD_eq fun j _ => ?_
  rw [getLsbD_putFlag f i _ hi]
  split
  · next h => rw [h]
  · rfl

theorem sahfFlags_lahfByte : sahfFlags f (lahfByte f) = f := by
  obtain ⟨hc, hz, hs⟩ := getLsbD_lahfByte f
  have carry : putCf f (cf f) = f := putFlag_self f (by decide)
  have zero : putZf f (zf f) = f := putFlag_self f (by decide)
  have sign : putSf f (sf f) = f := putFlag_self f (by decide)
  rw [sahfFlags, hc, hz, hs, carry, zero, sign]

/-- CF, ZF and SF are bits 0, 6 and 7 of the byte (41_data_movement.md R135). -/
theorem sahfFlags_obeys_byte (b : Byte) :
    FlagsObey ⟨.is (b.getLsbD 0), .is (b.getLsbD 6), .is (b.getLsbD 7), .kept⟩ f (sahfFlags f b) :=
  flagsObey_putSf (flagsObey_putZf (flagsObey_putCf (flagsObey_kept f) (.is _) rfl) (.is _) rfl) (.is _) rfl

end

/-- AH is bits 8 to 15 of EAX (10_state.md R24). -/
theorem getLsbD_ah (s : State) {i : Nat} (hi : i < 8) : (getReg8 s .ah).getLsbD i = (getReg s .eax).getLsbD (8 + i) := by
  rw [getReg8_eq_extract, BitVec.getLsbD_extractLsb', decide_eq_true hi, Bool.true_and]
  rfl

/-- Settles O38: the two bytes are each other's inverse on the three flags, and AH alone changes. -/
theorem flagTransfers : Obligations.FlagTransfers := by
  unfold Obligations.FlagTransfers
  intro s
  have lahf : handler (.lahf []) s = .done () (setReg8 s .ah (lahfByte s.flags)) := rfl
  have sahf (t : State) : handler (.sahf []) t = .done () (setFlags t (sahfFlags t.flags (getReg8 t .ah))) := rfl
  obtain ⟨lahfExec, lahfFell⟩ := exec_of_quiet rfl lahf
  obtain ⟨sahfExec, sahfFell⟩ := exec_of_quiet rfl (sahf s)
  refine ⟨⟨_, lahfExec, ?_, ?_, ?_, ((handler_ends _ s).of_done lahf).regsBut, .of_eq rfl rfl rfl, rfl,
      ⟨rfl, rfl, rfl⟩, lahfFell, _, (exec_of_quiet rfl (sahf _)).1, ?_⟩,
    _, sahfExec, ?_, fun _ _ => rfl, .of_eq rfl rfl rfl, ⟨rfl, rfl, rfl⟩, sahfFell⟩
  · rw [getReg8_setPc, getReg8_setReg8_same, toNat_lahfByte]
  · rw [getReg8_eq_extract, getReg8_eq_extract]
    exact extract_setReg8 s .ah _ .eax fun _ => .inl (by decide)
  · exact extract_setReg8 s .ah _ .eax fun _ => .inr (by decide)
  · rw [setPc_flags, setFlags_flags, getReg8_setPc, getReg8_setReg8_same]
    exact sahfFlags_lahfByte s.flags
  · rw [← getLsbD_ah s (i := 0) (by decide), ← getLsbD_ah s (i := 6) (by decide), ← getLsbD_ah s (i := 7) (by decide)]
    exact sahfFlags_obeys_byte s.flags _

-- ## BSWAP

/-- Byte `i` of the swapped word is byte `3 - i` of the word (41_data_movement.md R136). -/
theorem extract_byteSwap (v : Word) {i : Nat} (hi : i < 4) :
    (byteSwap v).extractLsb' (8 * i) 8 = v.extractLsb' (8 * (3 - i)) 8 := by
  refine BitVec.eq_of_getLsbD_eq fun j hj => ?_
  simp only [byteSwap, BitVec.getLsbD_extractLsb', BitVec.getLsbD_append]
  interval_cases i <;> grind

theorem byteSwap_byteSwap (v : Word) : byteSwap (byteSwap v) = v := by
  have b0 := extract_byteSwap v (i := 0) (by decide)
  have b1 := extract_byteSwap v (i := 1) (by decide)
  have b2 := extract_byteSwap v (i := 2) (by decide)
  have b3 := extract_byteSwap v (i := 3) (by decide)
  calc byteSwap (byteSwap v)
    _ = v.extractLsb' 24 8 ++ v.extractLsb' 16 8 ++ v.extractLsb' 8 8 ++ v.extractLsb' 0 8 :=
      congrArg₂ _ (congrArg₂ _ (congrArg₂ _ b0 b1) b2) b3
    _ = v := append_extract_bytes v

/-- Settles O39: byte by byte, and twice the swap is the identity. -/
theorem byteSwaps : Obligations.ByteSwaps := by
  unfold Obligations.ByteSwaps
  intro s r
  have swap (t : State) : handler (.bswap [.reg32 r]) t = .done () (setReg t r (byteSwap (getReg t r))) := rfl
  obtain ⟨executed, fell⟩ := exec_of_quiet rfl (swap s)
  refine ⟨_, executed, fun i hi => ?_, ((handler_ends _ s).of_done (swap s)).regsBut, .of_eq rfl rfl rfl, rfl,
    ⟨rfl, rfl, rfl⟩, fell, _, (exec_of_quiet rfl (swap _)).1, fun q _ => ?_⟩
  · rw [getReg_setPc, getReg_setReg_same, extract_byteSwap _ hi]
  · by_cases hq : q = r
    · subst hq
      simp only [getReg_setPc, getReg_setReg_same, byteSwap_byteSwap]
    · simp only [getReg_setPc, getReg_setReg_other _ _ _ _ hq]

end Sys2Proof.Machine
end

section
/-! # Arithmetic and logic of 32 bits

The 32-bit forms of the shared frames (42_arithmetic.md R137 to R142, 43_logical_bitscan.md R144 to R147) and XADD
(42_arithmetic.md R143). -/

namespace Sys2Proof.Machine

-- ## The flags of a result (40_flag_module.md R95 to R101)

section
variable (f d v r : Word) (old : Bool)

theorem zeroOf_allows : (zeroOf r).allows old (r == 0) := by
  have zero : r.toNat = 0 ↔ r = 0 := BitVec.toNat_inj (y := 0)
  rw [zeroOf, FlagRule.allows, Bool.eq_iff_iff, beq_iff_eq, beq_iff_eq, zero]

theorem signOf_allows : (signOf r).allows old r.msb := r.msb_eq_getLsbD_last

theorem flagsAdd_obeys_addRules : FlagsObey (addRules d v r) f (flagsAdd f d v r) :=
  putFlags_obeys rfl (zeroOf_allows ..) (signOf_allows ..) rfl

theorem flagsSub_obeys_subRules : FlagsObey (subRules d v r) f (flagsSub f d v r) :=
  putFlags_obeys rfl (zeroOf_allows ..) (signOf_allows ..) rfl

theorem flagsLogic_obeys_logicRules : FlagsObey (logicRules r) f (flagsLogic f r) :=
  putFlags_obeys rfl (zeroOf_allows ..) (signOf_allows ..) rfl

theorem flagsInc_obeys_addRules : FlagsObey { addRules d 1 r with cf := .kept } f (flagsInc f d r) :=
  flagsObey_putCf (flagsAdd_obeys_addRules ..) .kept rfl

theorem flagsDec_obeys_subRules : FlagsObey { subRules d 1 r with cf := .kept } f (flagsDec f d r) :=
  flagsObey_putCf (flagsSub_obeys_subRules ..) .kept rfl

theorem flagsNeg_obeys_subRules :
    FlagsObey { subRules 0 d r with cf := .is (decide (d ≠ 0)) } f (flagsNeg f d r) := by
  have carry : (d != 0) = decide (d ≠ 0) := by rw [Bool.eq_iff_iff, bne_iff_ne, decide_eq_true_iff]
  exact flagsObey_putCf (flagsSub_obeys_subRules ..) (.is _) carry

end

-- ## The two reads

section
variable (s : State) (dst src : Operand)

@[simp] theorem afterReads_cfg : (afterReads s dst src).cfg = s.cfg := by simp [afterReads]
@[simp] theorem afterReads_flags : (afterReads s dst src).flags = s.flags := by simp [afterReads]
@[simp] theorem afterReads_bankA : (afterReads s dst src).bankA = s.bankA := by simp [afterReads]
@[simp] theorem afterReads_pixels : (afterReads s dst src).pixels = s.pixels := by simp [afterReads]
@[simp] theorem getReg_afterReads (r : Reg32) : getReg (afterReads s dst src) r = getReg s r := by simp [afterReads]
@[simp] theorem writeOk_afterReads (op : Operand) : writeOk (afterReads s dst src) op = writeOk s op := by
  simp [afterReads]

theorem afterReads_sameMemory : SameMemory s (afterReads s dst src) :=
  .of_eq (afterReads_cfg ..) (afterReads_bankA ..) (afterReads_pixels ..)

end

-- ## The shared frames in their 32-bit forms

theorem formBinary_wide_of_binaryForm {dst src : Operand} (h : binaryForm [dst, src] = true)
    (h8 : dst.isReg8 = false) : formBinary dst src = .wide := by
  cases dst with
  | reg8 r => cases h8
  | reg32 r =>
    cases src with
    | reg32 q | imm v | mem m => rfl
    | _ => cases h
  | mem m =>
    cases src with
    | reg32 q | imm v => rfl
    | _ => cases h
  | _ => cases h

theorem formUnary_wide_of_unaryForm {dst : Operand} (h : unaryForm [dst] = true) (h8 : dst.isReg8 = false) :
    formUnary dst = .wide := by
  cases dst with
  | reg32 r | mem m => rfl
  | reg8 r => cases h8
  | _ => cases h

/-- An instruction that reads its operands, and then writes the destination and the flags. -/
theorem write_completes {i : Instr} {s u : State} {dst : Operand} {v flags : Word} {rules : FlagRules}
    (hi : quiet i.mnemonic = true) (done : handler i s = .done () (setFlags (poke u dst v) flags))
    (hbankA : u.bankA.wf) (hpixels : u.pixels.wf) (hw : writeOk u dst = true) (obeys : FlagsObey rules s.flags flags) :
    ∃ t, exec i s = .next t ∧ Stored u dst v t ∧ FlagsObey rules s.flags t.flags ∧ SameKeyboard u t ∧
      FellThrough s t := by
  obtain ⟨executed, fell⟩ := exec_of_quiet hi done
  exact ⟨_, executed, (stored_poke hbankA hpixels hw v).congr rfl rfl rfl rfl, obeys,
    ⟨poke_kq .., poke_lastCode .., poke_lastState ..⟩, fell⟩

section
variable {mk : List Operand → Instr} {m : Mnemonic} {op : ByteOp}

section
variable {f : Word → Word → Word} {fl : Word → Word → Word → Word → Word}
  {rules : Word → Word → Word → FlagRules}
  (obeys : ∀ old d v r, FlagsObey (rules d v r) old (fl old d v r)) (hi : ∀ ops, quiet (mk ops).mnemonic = true)
  (hwf : ∀ ops, (mk ops).wf = binaryForm ops)
include obeys hi hwf

theorem binaryOp_wideResult (hx : ∀ ops s, handler (mk ops) s = binaryOp m f fl op ops s) :
    WideResult mk f rules := by
  intro s dst src hs h h8 hsrc hdst hw
  obtain ⟨-, ⟨hbankA, -⟩, -, ⟨hpixels, -⟩, -⟩ := hs
  have done := (hx _ s).trans (binaryOp_wide (formBinary_wide_of_binaryForm (hwf _ ▸ h) h8) hsrc hdst hw)
  refine write_completes (hi _) done ?_ ?_ ?_ ?_
  · rwa [afterReads_bankA]
  · rwa [afterReads_pixels]
  · rwa [writeOk_afterReads]
  · rw [poke_flags, afterReads_flags]
    exact obeys ..

theorem compareOp_wideCompare (hx : ∀ ops s, handler (mk ops) s = compareOp m f fl op ops s) :
    WideCompare mk f rules := by
  intro s dst src _ h h8 hsrc hdst
  have done := (hx _ s).trans (compareOp_wide (formBinary_wide_of_binaryForm (hwf _ ▸ h) h8) hsrc hdst)
  obtain ⟨executed, fell⟩ := exec_of_quiet (hi _) done
  exact ⟨_, executed, fun r _ => getReg_afterReads s dst src r,
    (afterReads_sameMemory s dst src).trans (.of_eq rfl rfl rfl), obeys .., ⟨rfl, rfl, rfl⟩, fell⟩

end

theorem unaryOp_wideUnary {b : Byte} {f : Word → Word} {fl : Word → Word → Word → Word}
    {rules : Word → Word → FlagRules} (obeys : ∀ old d r, FlagsObey (rules d r) old (fl old d r))
    (hi : ∀ ops, quiet (mk ops).mnemonic = true) (hwf : ∀ ops, (mk ops).wf = unaryForm ops)
    (hx : ∀ ops s, handler (mk ops) s = unaryOp m f fl op b ops s) : WideUnary mk f rules := by
  intro s dst hs h h8 hdst hw
  obtain ⟨-, ⟨hbankA, -⟩, -, ⟨hpixels, -⟩, -⟩ := hs
  have done := (hx _ s).trans (unaryOp_wide (formUnary_wide_of_unaryForm (hwf _ ▸ h) h8) hdst hw)
  refine write_completes (hi _) done ?_ ?_ ?_ ?_
  · rwa [touch_bankA]
  · rwa [touch_pixels]
  · rwa [writeOk_touch]
  · rw [poke_flags, touch_flags]
    exact obeys ..

end

/-- Settles O40: each instruction is the shared frame with its own result and flags. -/
theorem wideTwoOperand : Obligations.WideTwoOperand := by
  unfold Obligations.WideTwoOperand
  simp only [ofNat_toNat_add, ofInt_toNat_sub]
  have logic (old _ _ r : Word) : FlagsObey (logicRules r) old (flagsLogic old r) := flagsLogic_obeys_logicRules old r
  exact ⟨binaryOp_wideResult flagsAdd_obeys_addRules (fun _ => rfl) (fun _ => rfl) fun _ _ => rfl,
    binaryOp_wideResult flagsSub_obeys_subRules (fun _ => rfl) (fun _ => rfl) fun _ _ => rfl,
    binaryOp_wideResult logic (fun _ => rfl) (fun _ => rfl) fun _ _ => rfl,
    binaryOp_wideResult logic (fun _ => rfl) (fun _ => rfl) fun _ _ => rfl,
    binaryOp_wideResult logic (fun _ => rfl) (fun _ => rfl) fun _ _ => rfl⟩

/-- Settles O41: the frame of SUB and AND without the write. -/
theorem wideCompares : Obligations.WideCompares := by
  unfold Obligations.WideCompares
  simp only [ofInt_toNat_sub]
  have logic (old _ _ r : Word) : FlagsObey (logicRules r) old (flagsLogic old r) := flagsLogic_obeys_logicRules old r
  exact ⟨compareOp_wideCompare flagsSub_obeys_subRules (fun _ => rfl) (fun _ => rfl) fun _ _ => rfl,
    compareOp_wideCompare logic (fun _ => rfl) (fun _ => rfl) fun _ _ => rfl⟩

/-- Settles O42: INC and DEC add and subtract 1, and NEG subtracts from 0. -/
theorem wideOneOperand : Obligations.WideOneOperand := by
  unfold Obligations.WideOneOperand
  have addOne (d : Word) : BitVec.ofNat 32 (d.toNat + 1) = d + 1 := ofNat_toNat_add d 1
  have subOne (d : Word) : BitVec.ofInt 32 (d.toNat - 1) = d - 1 := ofInt_toNat_sub d 1
  have zeroSub (d : Word) : BitVec.ofInt 32 (-d.toNat) = 0 - d := (ofInt_neg_toNat d).trans (zero_sub d).symm
  simp only [addOne, subOne, zeroSub]
  exact ⟨unaryOp_wideUnary flagsInc_obeys_addRules (fun _ => rfl) (fun _ => rfl) fun _ _ => rfl,
    unaryOp_wideUnary flagsDec_obeys_subRules (fun _ => rfl) (fun _ => rfl) fun _ _ => rfl,
    unaryOp_wideUnary flagsNeg_obeys_subRules (fun _ => rfl) (fun _ => rfl) fun _ _ => rfl⟩

-- ## XADD

section
variable (s : State) (a b : Reg32)

/-- The sum is written last, over the exchanged value where the registers are one (42_arithmetic.md R143). -/
theorem getReg_xaddRegs_dst : getReg (xaddRegs s (.reg32 a) (.reg32 b)) a = getReg s a + getReg s b :=
  getReg_setReg_same ..

theorem getReg_xaddRegs_src (h : b ≠ a) : getReg (xaddRegs s (.reg32 a) (.reg32 b)) b = getReg s a :=
  (getReg_setReg_other _ _ _ _ h).trans (getReg_setReg_same ..)

end

/-- XADD does nothing to a first operand that is no register (30_encoding.md R87). -/
theorem handler_xadd_ignored {dst src : Operand} (hdst : (∃ v, dst = .imm v) ∨ ∃ m, dst = .mem m)
    (hsrc : src.resolved = true) (s : State) : handler (.xadd [dst, src]) s = .done () s := by
  obtain ⟨v, rfl⟩ | ⟨m, rfl⟩ := hdst
  all_goals
    rw [handler, handleXadd, operands2_resolved rfl hsrc]
    rfl

/-- Settles O44: from the registers that the exchange leaves, and from the form of an ignored destination. -/
theorem exchangeAdd : Obligations.ExchangeAdd := by
  unfold Obligations.ExchangeAdd
  simp only [ofNat_toNat_add]
  refine ⟨fun s a b => ?_, fun s dst src hdst hsrc => (exec_of_quiet rfl (handler_xadd_ignored hdst hsrc s)).1⟩
  have done : handler (.xadd [.reg32 a, .reg32 b]) s = .done () (xaddRegs s (.reg32 a) (.reg32 b)) := rfl
  obtain ⟨executed, fell⟩ := exec_of_quiet rfl done
  exact ⟨_, executed, getReg_xaddRegs_dst s a b, getReg_xaddRegs_src s a b, ((handler_ends _ s).of_done done).regsBut,
    .of_eq rfl rfl rfl, flagsAdd_obeys_addRules .., ⟨rfl, rfl, rfl⟩, fell⟩

end Sys2Proof.Machine
end

section
/-! # Bit scans

BSF and BSR (43_logical_bitscan.md R148, R149): the index of the first set bit, upwards from bit 0 and downwards from
bit 31. -/

namespace Sys2Proof.Machine

-- ## The first set bit in an order of the indices

/-- `index` gives the set bit of a word before which, in the order `before`, none is set. -/
def FindsFirstBit (before : Nat → Nat → Prop) (index : Word → Nat) : Prop :=
  ∀ v : Word, v ≠ 0 → v.getLsbD (index v) = true ∧ ∀ j, before j (index v) → v.getLsbD j = false

/-- A search through all indices in an order finds the first set bit in that order. -/
theorem find?_findsFirstBit {before : Nat → Nat → Prop} {l : List Nat} (asymm : ∀ i j, before i j → ¬ before j i)
    (ordered : l.Pairwise before) (all : ∀ j < 32, j ∈ l) :
    FindsFirstBit before fun v => (l.find? fun i => v.getLsbD i).getD 0 := by
  intro v hv
  dsimp only
  cases found : l.find? fun i => v.getLsbD i with
  | none =>
    have v_zero : v = 0 := BitVec.eq_of_getLsbD_eq fun j hj => by
      simpa using List.find?_eq_none.mp found j (all j hj)
    exact absurd v_zero hv
  | some i =>
    obtain ⟨bit_set, earlier, later, rfl, unset⟩ := List.find?_eq_some_iff_append.mp found
    obtain ⟨-, ordered_later, -⟩ := List.pairwise_append.mp ordered
    refine ⟨bit_set, fun j hji => Bool.eq_false_iff.mpr fun hj => ?_⟩
    rcases List.mem_append.mp (all j (BitVec.lt_of_getLsbD hj)) with h | h
    · simpa [hj] using unset j h
    · rcases List.mem_cons.mp h with rfl | h
      · exact asymm _ _ hji hji
      · exact asymm _ _ hji (List.rel_of_pairwise_cons ordered_later h)

theorem leastBit_findsFirstBit : FindsFirstBit (· < ·) leastBit :=
  find?_findsFirstBit (fun _ _ => Nat.lt_asymm) List.pairwise_lt_range fun _ => List.mem_range.mpr

theorem greatestBit_findsFirstBit : FindsFirstBit (· > ·) greatestBit :=
  find?_findsFirstBit (fun _ _ => Nat.lt_asymm) (List.pairwise_reverse.mpr List.pairwise_lt_range)
    fun _ hj => List.mem_reverse.mpr (List.mem_range.mpr hj)

/-- The index of a set bit fits in a word. -/
theorem toNat_ofNat_setBit {v : Word} {i : Nat} (h : v.getLsbD i = true) : (BitVec.ofNat 32 i).toNat = i :=
  Nat.mod_eq_of_lt ((BitVec.lt_of_getLsbD h).trans (by decide))

-- ## The shared frame

theorem formScan_wide_of_scanForm {dst src : Operand} (h : scanForm [dst, src] = true) : formScan dst src = .wide := by
  cases dst with
  | reg32 r =>
    cases src with
    | reg32 q | mem m => rfl
    | _ => cases h
  | _ => cases h

/-- What a bit scan in the order `before` does to its register, to ZF, and to nothing else (43_logical_bitscan.md R148,
R149, decision D36). -/
def ScanResult (before : Nat → Nat → Prop) (i : Instr) (s : State) (r : Reg32) (src : Operand) : Prop :=
  ∃ t, exec i s = .next t ∧
    (peek s src = 0 → getReg t r = getReg s r) ∧
    (peek s src ≠ 0 → (peek s src).getLsbD (getReg t r).toNat = true ∧
      ∀ j, before j (getReg t r).toNat → (peek s src).getLsbD j = false) ∧
    RegsBut [r] s t ∧ SameMemory s t ∧ FlagsObey ⟨.kept, .is (peek s src == 0), .kept, .kept⟩ s.flags t.flags ∧
    SameKeyboard (touch s src) t ∧ FellThrough s t

theorem scanOp_scanResult {before : Nat → Nat → Prop} {index : Word → Nat} {i : Instr} {m : Mnemonic} {s : State}
    {r : Reg32} {src : Operand} (first : FindsFirstBit before index) (hi : quiet i.mnemonic = true)
    (hx : handler i s = scanOp m index [.reg32 r, src] s) (hform : scanForm [.reg32 r, src] = true)
    (hread : readOk s src = true) : ScanResult before i s r src := by
  have done := hx.trans (scanOp_wide (formScan_wide_of_scanForm hform) hread)
  have zfAlone {z : Bool} (hz : z = (peek s src == 0)) :
      FlagsObey ⟨.kept, .is (peek s src == 0), .kept, .kept⟩ s.flags (putZf s.flags z) :=
    flagsObey_putZf (flagsObey_kept _) (.is _) hz
  have memory : SameMemory s (touch s src) := .of_eq (touch_cfg ..) (touch_bankA ..) (touch_pixels ..)
  split at done
  · next zero =>
    obtain ⟨executed, fell⟩ := exec_of_quiet hi done
    exact ⟨_, executed, fun _ => getReg_touch .., fun h => absurd zero h, fun q _ => getReg_touch ..,
      memory.trans (.of_eq rfl rfl rfl), zfAlone (beq_iff_eq.mpr zero).symm, ⟨rfl, rfl, rfl⟩, fell⟩
  · next nonzero =>
    obtain ⟨executed, fell⟩ := exec_of_quiet hi done
    refine ⟨_, executed, fun h => absurd h nonzero, fun _ => ?_, fun q hq => ?_, memory.trans (.of_eq rfl rfl rfl),
      zfAlone (beq_eq_false_iff_ne.mpr nonzero).symm, ⟨rfl, rfl, rfl⟩, fell⟩
    · rw [getReg_setPc, getReg_setFlags, getReg_setReg_same, toNat_ofNat_setBit (first _ nonzero).1]
      exact first _ nonzero
    · rw [getReg_setPc, getReg_setFlags, getReg_setReg_other _ _ _ _ (List.ne_of_not_mem_cons hq), getReg_touch]

/-- Settles O45: BSF and BSR are one frame, with the first set bit upwards and downwards. -/
theorem bitScans : Obligations.BitScans := by
  unfold Obligations.BitScans
  intro s r src hwf hread
  exact ⟨scanOp_scanResult (m := .bsf) leastBit_findsFirstBit rfl rfl hwf hread,
    scanOp_scanResult (m := .bsr) greatestBit_findsFirstBit rfl rfl hwf hread⟩

end Sys2Proof.Machine
end

section
/-! # Shifts and rotates by another count

SHL, SHR and SAR (44_shift_rotate.md R151 to R153), ROL and ROR within 32 bits (R154, R155), and RCL and RCR within the
33 bits of CF and the destination (R156, R157), which the model computes in numbers. -/

namespace Sys2Proof.Machine

-- ## Rotations as numbers

section
variable {w : Nat} (x : BitVec w) {c : Nat}

/-- The two shifts of a rotation share no bit. -/
theorem shiftLeft_and_ushiftRight_eq_zero (hc : c ≤ w) : (x <<< c) &&& (x >>> (w - c)) = 0#w := by
  refine BitVec.eq_of_getLsbD_eq fun i hi => ?_
  rw [BitVec.getLsbD_and, BitVec.getLsbD_shiftLeft, BitVec.getLsbD_ushiftRight, BitVec.getLsbD_zero]
  by_cases low : i < c
  · simp [low]
  · simp [BitVec.getLsbD_of_ge x (w - c + i) (by omega)]

theorem toNat_rotateLeft_eq_add (hc : c < w) :
    (x.rotateLeft c).toNat = (x.toNat * 2 ^ c + x.toNat / 2 ^ (w - c)) % 2 ^ w :=
  calc (x.rotateLeft c).toNat
    _ = (x <<< c + x >>> (w - c)).toNat := by
      rw [BitVec.rotateLeft_def, Nat.mod_eq_of_lt hc,
        BitVec.add_eq_or_of_and_eq_zero _ _ (shiftLeft_and_ushiftRight_eq_zero x hc.le)]
    _ = _ := by
      rw [BitVec.toNat_add, BitVec.toNat_shiftLeft, BitVec.toNat_ushiftRight, Nat.mod_add_mod, Nat.shiftLeft_eq,
        Nat.shiftRight_eq_div_pow]

theorem rotateRight_eq_rotateLeft (hpos : 0 < c) (hc : c < w) : x.rotateRight c = x.rotateLeft (w - c) := by
  rw [BitVec.rotateRight_def, BitVec.rotateLeft_def, Nat.mod_eq_of_lt hc, Nat.mod_eq_of_lt (by omega : w - c < w),
    Nat.sub_sub_self hc.le, BitVec.or_comm]

theorem toNat_rotateRight_eq_add (hpos : 0 < c) (hc : c < w) :
    (x.rotateRight c).toNat = (x.toNat / 2 ^ c + x.toNat * 2 ^ (w - c)) % 2 ^ w := by
  rw [rotateRight_eq_rotateLeft x hpos hc, toNat_rotateLeft_eq_add x (by omega), Nat.sub_sub_self hc.le, Nat.add_comm]

end

-- ## The results (44_shift_rotate.md R151 to R157)

section
variable (f d : Word) (c : Nat)

theorem shlWord_eq : shlWord f d c = BitVec.ofNat 32 (d.toNat * 2 ^ c) := by
  rw [← Nat.shiftLeft_eq]
  rfl

theorem shrWord_eq : shrWord f d c = BitVec.ofNat 32 (d.toNat / 2 ^ c) := by
  rw [← Nat.shiftRight_eq_div_pow, ← BitVec.toNat_ushiftRight, BitVec.ofNat_toNat, BitVec.setWidth_eq, shrWord]

theorem sarWord_eq : sarWord f d c = BitVec.ofInt 32 (d.toInt / 2 ^ c) := by
  rw [sarWord, BitVec.sshiftRight, Int.shiftRight_eq_div_pow]
  rfl

/-- The 33 bits of CF and the destination, as a bit vector. -/
def carryBits : BitVec 33 := BitVec.ofBool (cf f) ++ d

theorem carryWord_eq : carryWord f d = (carryBits f d).toNat :=
  calc carryWord f d
    _ = (BitVec.ofBool (cf f)).toNat <<< 32 + d.toNat := by
      rw [carryWord]
      cases cf f <;> rfl
    _ = (carryBits f d).toNat := Nat.shiftLeft_add_eq_or_of_lt d.isLt _

variable {c} (hc : c < 32)
include hc

theorem rolWord_eq : rolWord f d c = d.rotateLeft c := by
  rw [BitVec.rotateLeft_def, Nat.mod_eq_of_lt hc, rolWord]

theorem rorWord_eq : rorWord f d c = d.rotateRight c := by
  rw [BitVec.rotateRight_def, Nat.mod_eq_of_lt hc, rorWord]

theorem rclWide_eq : rclWide f d c = ((carryBits f d).rotateLeft c).toNat := by
  rw [toNat_rotateLeft_eq_add _ (hc.trans (by decide)), ← carryWord_eq, rclWide]

theorem rclWord_eq : rclWord f d c = ((carryBits f d).rotateLeft c).setWidth 32 := by
  rw [rclWord, rclWide_eq f d hc, BitVec.ofNat_toNat]

variable (hpos : 0 < c)
include hpos

theorem rcrWide_eq : rcrWide f d c = ((carryBits f d).rotateRight c).toNat := by
  rw [toNat_rotateRight_eq_add _ hpos (hc.trans (by decide)), ← carryWord_eq, rcrWide]

theorem rcrWord_eq : rcrWord f d c = ((carryBits f d).rotateRight c).setWidth 32 := by
  rw [rcrWord, rcrWide_eq f d hc hpos, BitVec.ofNat_toNat]

end

-- ## The flags of a rotate (40_flag_module.md R106 to R108)

theorem rotateZfSf_obeys_rotateRules (s : State) (carry overflow : Bool) (r : Word) :
    FlagsObey (rotateRules s carry overflow r) s.flags
      (rotateZfSf s.mode (putOf (putCf s.flags carry) overflow) r) := by
  have carryOverflow : FlagsObey ⟨.is carry, .kept, .kept, .is overflow⟩ s.flags
      (putOf (putCf s.flags carry) overflow) :=
    flagsObey_putOf (flagsObey_putCf (flagsObey_kept _) (.is _) rfl) (.is _) rfl
  rw [rotateRules]
  cases s.mode with
  | teaching => exact flagsObey_putSf (flagsObey_putZf carryOverflow _ (zeroOf_allows ..)) _ (signOf_allows ..)
  | strict => exact carryOverflow

-- ## The shared frame

/-- A shift or rotate whose flags are a function `k` of the configuration, the mode and the prior flags, none of which
an access changes. -/
theorem shiftOp_shiftResult {mk : List Operand → Instr} {m : Mnemonic} {f : Word → Word → Nat → Word}
    {g : State → Word → Nat → Word} {rules : State → Word → Nat → Nat → Word → FlagRules}
    (k : Config → Mode → Word → Word → Nat → Nat → Word → Word) (hi : ∀ ops, quiet (mk ops).mnemonic = true)
    (hwf : ∀ ops, (mk ops).wf = shiftForm ops)
    (hx : ∀ ops s, handler (mk ops) s = shiftOp m f (fun u => k u.cfg u.mode u.flags) ops s)
    (result : ∀ s d c, 0 < c → c < 32 → f s.flags d c = g s d c)
    (obeys : ∀ s d n c r, 0 < c → c < 32 → FlagsObey (rules s d n c r) s.flags (k s.cfg s.mode s.flags d n c r)) :
    ShiftResult mk g rules := by
  intro s dst count hs h hcount hdst hw
  obtain ⟨-, ⟨hbankA, -⟩, -, ⟨hpixels, -⟩, -⟩ := hs
  have pos : 0 < maskedCount s count := Nat.pos_of_ne_zero hcount
  have bound : maskedCount s count < 32 := Nat.mod_lt _ (by decide)
  have done := (hx _ s).trans (shiftOp_wide (formShift_of_shiftForm (hwf _ ▸ h)) hcount hdst hw)
  dsimp only at done
  rw [poke_cfg, poke_mode, poke_flags, touch_cfg, touch_mode, touch_flags, result _ _ _ pos bound] at done
  refine write_completes (hi _) done ?_ ?_ ?_ (obeys _ _ _ _ _ pos bound)
  · rwa [touch_bankA]
  · rwa [touch_pixels]
  · rwa [writeOk_touch]

/-- Settles O46: each shift is the shared frame with its own result and flags. -/
theorem shifts_obeyed : Obligations.Shifts := by
  unfold Obligations.Shifts
  refine ⟨?shl, ?shr, ?sar⟩
  case shl =>
    exact shiftOp_shiftResult (fun cfg _ => flagsShl cfg.shlCfRawCount) (fun _ => rfl) (fun _ => rfl) (fun _ _ => rfl)
      (fun _ _ _ _ _ => shlWord_eq ..)
      fun _ _ _ _ _ _ _ => putFlags_obeys rfl (zeroOf_allows ..) (signOf_allows ..) rfl
  case shr =>
    exact shiftOp_shiftResult (fun _ _ f d _ => flagsShr f d) (fun _ => rfl) (fun _ => rfl) (fun _ _ => rfl)
      (fun _ _ _ _ _ => shrWord_eq ..)
      fun _ _ _ _ _ _ _ => putFlags_obeys rfl (zeroOf_allows ..) (signOf_allows ..) rfl
  case sar =>
    exact shiftOp_shiftResult (fun _ _ f d _ => flagsSar f d) (fun _ => rfl) (fun _ => rfl) (fun _ _ => rfl)
      (fun _ _ _ _ _ => sarWord_eq ..)
      fun _ _ _ _ _ _ _ => putFlags_obeys rfl (zeroOf_allows ..) (signOf_allows ..) rfl

/-- Settles O47: each rotate is the shared frame with its own result and carry; those of RCL and RCR are bits of the
rotated 33. -/
theorem rotates : Obligations.Rotates := by
  unfold Obligations.Rotates
  refine ⟨?rol, ?ror, ?rcl, ?rcr⟩
  case rol =>
    exact shiftOp_shiftResult (fun _ m f _ _ c r => flagsRotL m f r (r.getLsbD 0) c) (fun _ => rfl) (fun _ => rfl)
      (fun _ _ => rfl) (fun _ _ _ _ hc => rolWord_eq _ _ hc) fun s _ _ _ _ _ _ => rotateZfSf_obeys_rotateRules s ..
  case ror =>
    exact shiftOp_shiftResult (fun _ m f _ _ c r => flagsRotR m f r r.msb c) (fun _ => rfl) (fun _ => rfl)
      (fun _ _ => rfl) (fun _ _ _ _ hc => rorWord_eq _ _ hc) fun s _ _ _ _ _ _ => rotateZfSf_obeys_rotateRules s ..
  case rcl =>
    refine shiftOp_shiftResult (fun _ m f d _ c r => flagsRotL m f r ((rclWide f d c).testBit 32) c) (fun _ => rfl)
      (fun _ => rfl) (fun _ _ => rfl) (fun _ _ _ _ hc => rclWord_eq _ _ hc) fun s d _ c r _ hc => ?_
    dsimp only
    rw [rclWide_eq _ _ hc, BitVec.testBit_toNat]
    exact rotateZfSf_obeys_rotateRules s ..
  case rcr =>
    refine shiftOp_shiftResult (fun _ m f d _ c r => flagsRotR m f r ((rcrWide f d c).testBit 32) c) (fun _ => rfl)
      (fun _ => rfl) (fun _ _ => rfl) (fun _ _ _ hpos hc => rcrWord_eq _ _ hc hpos) fun s d _ c r hpos hc => ?_
    dsimp only
    rw [rcrWide_eq _ _ hc hpos, BitVec.testBit_toNat]
    exact rotateZfSf_obeys_rotateRules s ..

end Sys2Proof.Machine
end

section
/-! # Products and quotients

MUL and IMUL (45_multiply_divide.md R159, R160), DIV and IDIV (R161 to R163): one value read, and EAX, EDX and the flags
written. -/

namespace Sys2Proof.Machine

-- ## The two words of a product

/-- A number's two words side by side are its 64 bits. -/
theorem ofInt_high_append_low (p : Int) : BitVec.ofInt 32 (p / 2 ^ 32) ++ BitVec.ofInt 32 p = BitVec.ofInt 64 p := by
  refine BitVec.eq_of_toNat_eq ?_
  rw [BitVec.toNat_append, ← Nat.shiftLeft_add_eq_or_of_lt (BitVec.isLt _), Nat.shiftLeft_eq]
  simp only [BitVec.toNat_ofInt]
  omega

section
variable (a v : Word)

/-- The unsigned product of two words fits in 64 bits (45_multiply_divide.md R159). -/
theorem toNat_mulHi_append_mulLo : (mulHi a v ++ mulLo a v).toNat = a.toNat * v.toNat := by
  have bound : a.toNat * v.toNat < 2 ^ 32 * 2 ^ 32 := Nat.mul_lt_mul'' a.isLt v.isLt
  have words : mulHi a v ++ mulLo a v = BitVec.ofNat 64 (a.toNat * v.toNat) := by
    rw [mulHi, mulLo, ← BitVec.ofInt_natCast, ← BitVec.ofInt_natCast, ← BitVec.ofInt_natCast, Int.natCast_ediv,
      Nat.cast_pow, Nat.cast_ofNat, ofInt_high_append_low]
  rw [words, BitVec.toNat_ofNat]
  exact Nat.mod_eq_of_lt bound

/-- The signed product of two words fits in 64 bits (45_multiply_divide.md R160). -/
theorem toInt_imulHi_append_imulLo : (imulHi a v ++ imulLo a v).toInt = a.toInt * v.toInt := by
  have lower : -2 ^ 62 ≤ a.toInt * v.toInt := BitVec.le_toInt_mul_toInt
  have upper : a.toInt * v.toInt ≤ 2 ^ 62 := BitVec.toInt_mul_toInt_le
  rw [imulHi, imulLo, ofInt_high_append_low]
  exact BitVec.toInt_ofInt_eq_self (by decide) (by omega) (by omega)

-- ## Signed division (45_multiply_divide.md R163)

theorem idivQuotient_eq_sdiv : idivQuotient a v = a.sdiv v :=
  BitVec.eq_of_toInt_eq (by rw [idivQuotient, BitVec.toInt_ofInt, BitVec.toInt_sdiv])

theorem idivRemainder_eq_srem : idivRemainder a v = a.srem v := by
  rw [idivRemainder, Int.mul_comm, ← Int.tmod_def, ← BitVec.toInt_srem, BitVec.ofInt_toInt]

theorem signWord_eq : signWord a = if a.getLsbD 31 then 0xFFFFFFFF else 0 := by
  rw [signWord, BitVec.msb_eq_getLsbD_last]

/-- The one dividend and divisor whose quotient does not fit, as words. -/
theorem divideOverflow_iff : (a = 0x80000000 ∧ v = 0xFFFFFFFF) ↔ a.toInt = -2 ^ 31 ∧ v.toInt = -1 := by
  rw [← BitVec.toInt_inj, ← BitVec.toInt_inj]
  rfl

variable {a v}

theorem toInt_idivQuotient (h : ¬(a = 0x80000000 ∧ v = 0xFFFFFFFF)) :
    (idivQuotient a v).toInt = a.toInt.tdiv v.toInt := by
  rw [idivQuotient_eq_sdiv]
  exact BitVec.toInt_sdiv_of_ne_or_ne a v (not_and_or.mp h)

end

-- ## The flags by mode (40_flag_module.md R109, R110)

/-- The flags of a product of the words `lo` and `hi`. -/
def productRules (m : Mode) (lo hi : Word) : FlagRules :=
  match m with
  | .teaching => ⟨.is (hi != 0), zeroOf lo, signOf lo, .is (hi != 0)⟩
  | .strict => ⟨.is (hi != 0), .is false, .is false, .is (hi != 0)⟩

/-- The flags of a division with the quotient `q`. -/
def quotientRules (m : Mode) (q : Word) : FlagRules :=
  match m with
  | .teaching => ⟨.kept, zeroOf q, signOf q, .kept⟩
  | .strict => ⟨.is false, .kept, .kept, .is false⟩

theorem flagsMul_obeys_productRules (m : Mode) (f lo hi : Word) :
    FlagsObey (productRules m lo hi) f (flagsMul m f lo hi) := by
  cases m with
  | teaching => exact putFlags_obeys rfl (zeroOf_allows ..) (signOf_allows ..) rfl
  | strict => exact putFlags_obeys rfl rfl rfl rfl

theorem flagsDiv_obeys_quotientRules (m : Mode) (f q : Word) :
    FlagsObey (quotientRules m q) f (flagsDiv m f q) := by
  cases m with
  | teaching => exact flagsObey_putSf (flagsObey_putZf (flagsObey_kept f) _ (zeroOf_allows ..)) _ (signOf_allows ..)
  | strict => exact flagsObey_putOf (flagsObey_putCf (flagsObey_kept f) (.is false) rfl) (.is false) rfl

-- ## The shared frame

theorem formRegMem_wide_of_regMemForm {src : Operand} (h : regMemForm [src] = true) : formRegMem src = .wide := by
  cases src with
  | reg32 r | mem m => rfl
  | _ => cases h

/-- An instruction that reads `src` and then changes nothing but EAX, EDX and the flags, which obey the rules of the two
words it leaves in them. -/
def AccumulatorFrame (rules : Word → Word → FlagRules) (s : State) (src : Operand) (t : State) : Prop :=
  RegsBut [.eax, .edx] s t ∧ SameMemory s t ∧ FlagsObey (rules (getReg t .eax) (getReg t .edx)) s.flags t.flags ∧
  SameKeyboard (touch s src) t ∧ FellThrough s t

section
variable {i : Instr} {s : State} {src : Operand} {lo hi : Word} (quiet_i : quiet i.mnemonic = true)
include quiet_i

theorem accumulator_completes {flags : Word} {rules : Word → Word → FlagRules}
    (done : handler i s = .done () (setFlags (setReg (setReg (touch s src) .eax lo) .edx hi) flags))
    (obeys : FlagsObey (rules lo hi) s.flags flags) :
    ∃ t, exec i s = .next t ∧ getReg t .eax = lo ∧ getReg t .edx = hi ∧ AccumulatorFrame rules s src t := by
  obtain ⟨executed, fell⟩ := exec_of_quiet quiet_i done
  have memory : SameMemory s (touch s src) := .of_eq (touch_cfg ..) (touch_bankA ..) (touch_pixels ..)
  refine ⟨_, executed, rfl, rfl, fun r hr => ?_, memory.trans (.of_eq rfl rfl rfl), obeys, ⟨rfl, rfl, rfl⟩, fell⟩
  obtain ⟨not_eax, not_edx⟩ : r ≠ .eax ∧ r ≠ .edx := by simpa using hr
  rw [getReg_setPc, getReg_setFlags, getReg_setReg_other _ _ _ _ not_edx, getReg_setReg_other _ _ _ _ not_eax,
    getReg_touch]

theorem setProduct_completes (done : handler i s = .done () (setProduct (touch s src) lo hi)) :
    ∃ t, exec i s = .next t ∧ getReg t .eax = lo ∧ getReg t .edx = hi ∧
      AccumulatorFrame (productRules s.mode) s src t :=
  accumulator_completes quiet_i done (by rw [touch_mode, touch_flags]; exact flagsMul_obeys_productRules ..)

theorem setQuotient_completes (done : handler i s = .done () (setQuotient (touch s src) lo hi)) :
    ∃ t, exec i s = .next t ∧ getReg t .eax = lo ∧ getReg t .edx = hi ∧
      AccumulatorFrame (fun q _ => quotientRules s.mode q) s src t :=
  accumulator_completes quiet_i done (by rw [touch_mode, touch_flags]; exact flagsDiv_obeys_quotientRules ..)

end

-- ## The handlers

section
variable {s : State} {src : Operand} (form : formRegMem src = .wide) (hread : readOk s src = true)
include form hread

theorem handleMul_wide : handleMul [src] s =
    .done () (setProduct (touch s src) (mulLo (getReg s .eax) (peek s src)) (mulHi (getReg s .eax) (peek s src))) := by
  rw [handleMul, accumulatorOp_wide form hread, getReg_touch]

theorem handleImul_wide : handleImul [src] s =
    .done () (setProduct (touch s src) (imulLo (getReg s .eax) (peek s src))
      (imulHi (getReg s .eax) (peek s src))) := by
  rw [handleImul, accumulatorOp_wide form hread, getReg_touch]

theorem handleDiv_wide : handleDiv [src] s =
    if peek s src = 0 then .done () (setQuotient (touch s src) 0 0)
    else if getReg s .edx ≠ 0 then .refused .divideDividendUnknown
    else .done () (setQuotient (touch s src) (getReg s .eax / peek s src) (getReg s .eax % peek s src)) := by
  rw [handleDiv, accumulatorOp_wide form hread, getReg_touch, getReg_touch]

theorem handleIdiv_wide : handleIdiv [src] s =
    if peek s src = 0 then .done () (setQuotient (touch s src) 0 0)
    else if getReg s .edx ≠ signWord (getReg s .eax) then .refused .divideDividendUnknown
    else if getReg s .eax = 0x80000000 ∧ peek s src = 0xFFFFFFFF then .refused .divideOverflow
    else .done () (setQuotient (touch s src) (idivQuotient (getReg s .eax) (peek s src))
      (idivRemainder (getReg s .eax) (peek s src))) := by
  rw [handleIdiv, accumulatorOp_wide form hread, getReg_touch, getReg_touch]

end

/-- Settles O49: the two words of each product are its 64 bits, which hold it. -/
theorem products : Obligations.Products := by
  unfold Obligations.Products
  intro s src hwf hread
  have form := formRegMem_wide_of_regMemForm hwf
  refine ⟨?mul, ?imul⟩
  case mul =>
    obtain ⟨t, executed, eax, edx, frame⟩ := setProduct_completes (i := .mul _) rfl (handleMul_wide form hread)
    exact ⟨t, executed, by rw [edx, eax, toNat_mulHi_append_mulLo], frame⟩
  case imul =>
    obtain ⟨t, executed, eax, edx, frame⟩ := setProduct_completes (i := .imul _) rfl (handleImul_wide form hread)
    exact ⟨t, executed, by rw [edx, eax, toInt_imulHi_append_imulLo], frame⟩

/-- Settles O50: each case is the branch of the handler that its hypotheses select. -/
theorem quotients : Obligations.Quotients := by
  unfold Obligations.Quotients
  intro s src hwf hread
  have form := formRegMem_wide_of_regMemForm hwf
  have div := handleDiv_wide form hread
  have idiv := handleIdiv_wide form hread
  rw [signWord_eq] at idiv
  simp only [← divideOverflow_iff]
  refine ⟨fun zero => ?byZero, fun nonzero extended => ?div, fun nonzero unknown => ?divRefused,
    fun nonzero extended fits => ?idiv, fun nonzero unknown => ?idivRefused, fun extended least minusOne => ?overflow⟩
  case byZero =>
    rw [if_pos zero] at div idiv
    intro mk hmk
    obtain rfl | rfl := List.mem_pair.mp hmk
    · exact setQuotient_completes rfl div
    · exact setQuotient_completes rfl idiv
  case div =>
    rw [if_neg nonzero, if_neg (not_not.mpr extended)] at div
    obtain ⟨t, executed, eax, edx, frame⟩ := setQuotient_completes (i := .div _) rfl div
    refine ⟨t, executed, ?_, ?_, frame⟩
    · rw [eax, edx, BitVec.toNat_udiv, BitVec.toNat_umod, Nat.div_add_mod']
    · rw [edx, BitVec.toNat_umod]
      exact Nat.mod_lt _ (BitVec.toNat_pos_of_ne_zero nonzero)
  case divRefused =>
    rw [if_neg nonzero, if_pos unknown] at div
    exact exec_of_handler_refused div
  case idiv =>
    rw [if_neg nonzero, if_neg (not_not.mpr extended), if_neg fits] at idiv
    obtain ⟨t, executed, eax, edx, frame⟩ := setQuotient_completes (i := .idiv _) rfl idiv
    refine ⟨t, executed, ?_, ?_, frame⟩
    · rw [eax, toInt_idivQuotient fits]
    · rw [edx, idivRemainder_eq_srem, BitVec.toInt_srem]
  case idivRefused =>
    rw [if_neg nonzero, if_pos unknown] at idiv
    exact exec_of_handler_refused idiv
  case overflow =>
    obtain ⟨a_eq, v_eq⟩ := (divideOverflow_iff ..).mpr ⟨least, minusOne⟩
    have nonzero : peek s src ≠ 0 := by rw [v_eq]; decide
    have extension : getReg s .edx = if (getReg s .eax).getLsbD 31 then 0xFFFFFFFF else 0 := by
      rw [extended, a_eq]
      rfl
    rw [if_neg nonzero, if_neg (not_not.mpr extension), if_pos ⟨a_eq, v_eq⟩] at idiv
    exact exec_of_handler_refused idiv

end Sys2Proof.Machine
end

section
/-! # Strings

LODS, STOS, MOVS, SCAS and CMPS (46_string.md R164 to R169): one byte at each pointer, and the pointers raised. -/

namespace Sys2Proof.Machine

-- ## Memory and devices as before

section
variable {s t : State} (h : SameDevices s t)

theorem SameDevices.refl (s : State) : SameDevices s s := ⟨rfl, rfl, rfl, rfl, rfl, rfl⟩

include h

theorem SameDevices.setReg (r : Reg32) (v : Word) : SameDevices s (setReg t r v) :=
  ⟨h.cfg, h.bankA, h.pixels, h.kq, h.lastCode, h.lastState⟩

theorem SameDevices.setPc (n : Nat) : SameDevices s (setPc t n) :=
  ⟨h.cfg, h.bankA, h.pixels, h.kq, h.lastCode, h.lastState⟩

theorem SameDevices.bump (r : Reg32) : SameDevices s (bump t r) := h.setReg ..

theorem SameDevices.compareBytes (a b : Byte) : SameDevices s (compareBytes t a b) :=
  ⟨h.cfg, h.bankA, h.pixels, h.kq, h.lastCode, h.lastState⟩

theorem SameDevices.sameKeyboard : SameKeyboard s t := ⟨h.kq, h.lastCode, h.lastState⟩

theorem SameKeyboard.sameDevices {u : State} (keyboard : SameKeyboard u s) : SameKeyboard u t :=
  ⟨h.kq.trans keyboard.kq, h.lastCode.trans keyboard.lastCode, h.lastState.trans keyboard.lastState⟩

theorem StoredAt.sameDevices {u : State} {a v : Word} {n : Nat} (stored : StoredAt u a n v s) : StoredAt u a n v t :=
  stored.congr rfl rfl rfl h.cfg h.bankA h.pixels

end

theorem memPoke_sameKeyboard (s : State) (a : Word) (n : Nat) (v : Word) : SameKeyboard s (memPoke s a n v) :=
  ⟨memPoke_kq .., memPoke_lastCode .., memPoke_lastState ..⟩

-- ## Raising the pointers (46_string.md R164)

section
variable {s u : State} {r q : Reg32}

theorem getReg_bump_other (h : q ≠ r) : getReg (bump s r) q = getReg s q := getReg_setReg_other _ _ _ _ h

/-- No byte of a register is a pointer's. -/
theorem getReg8_bump_esi (b : Reg8) : getReg8 (bump s .esi) b = getReg8 s b := by
  have parent_ne : reg8Parent b ≠ .esi := by cases b <;> decide
  rw [getReg8, getReg_bump_other parent_ne, getReg8]

variable (n : Nat)

/-- A pointer that was as in `s` is raised by 1 modulo 2^32. -/
theorem toNat_bump (unchanged : getReg u r = getReg s r) :
    (getReg (setPc (bump u r) n) r).toNat = ((getReg s r).toNat + 1) % 2 ^ 32 := by
  rw [getReg_setPc, bump, getReg_setReg_same, unchanged]
  exact BitVec.toNat_add ..

/-- Both pointers raised, where they were as in `s`. -/
theorem toNat_bump_esi_edi (unchanged : ∀ r, getReg u r = getReg s r) :
    (getReg (setPc (bump (bump u .esi) .edi) n) .esi).toNat = ((getReg s .esi).toNat + 1) % 2 ^ 32 ∧
    (getReg (setPc (bump (bump u .esi) .edi) n) .edi).toNat = ((getReg s .edi).toNat + 1) % 2 ^ 32 := by
  have esi_kept : getReg (bump (bump u .esi) .edi) .esi = getReg (bump u .esi) .esi := getReg_bump_other (by decide)
  have edi_before : getReg (bump u .esi) .edi = getReg s .edi := (getReg_bump_other (by decide)).trans (unchanged _)
  refine ⟨?_, toNat_bump n edi_before⟩
  rw [getReg_setPc, esi_kept]
  exact toNat_bump n (unchanged .esi)

end

-- ## What the handlers leave

section
variable {s : State}

theorem handleLods_nil : handleLods [] s =
    .done () (bump (setReg8 (memTouch s (getReg s .esi)) .al ((memPeek s (getReg s .esi) 1).setWidth 8)) .esi) := by
  rw [handleLods, operands0, memRead_of_ok (memReadOk_one ..), Run.bind_done]

theorem handleStos_nil (hw : memWriteOk s (getReg s .edi) 1 = true) : handleStos [] s =
    .done () (bump (memPoke s (getReg s .edi) 1 ((getReg8 s .al).setWidth 32)) .edi) := by
  rw [handleStos, operands0, memWrite_of_ok hw, Run.bind_done]

theorem handleMovs_nil (hw : memWriteOk s (getReg s .edi) 1 = true) : handleMovs [] s =
    .done () (bump (bump (memPoke (memTouch s (getReg s .esi)) (getReg s .edi) 1 (memPeek s (getReg s .esi) 1)) .esi)
      .edi) := by
  have hw' : memWriteOk (memTouch s (getReg s .esi)) (getReg s .edi) 1 = true := by rwa [memWriteOk_memTouch]
  rw [handleMovs, operands0, memRead_of_ok (memReadOk_one ..), Run.bind_done, getReg_memTouch, memWrite_of_ok hw',
    Run.bind_done]

theorem handleScas_nil : handleScas [] s =
    .done () (bump (compareBytes (memTouch s (getReg s .edi)) (getReg8 s .al)
      ((memPeek s (getReg s .edi) 1).setWidth 8)) .edi) := by
  rw [handleScas, operands0, memRead_of_ok (memReadOk_one ..), Run.bind_done, getReg8_memTouch]

theorem handleCmps_nil : handleCmps [] s =
    .done () (bump (bump (compareBytes (memTouch (memTouch s (getReg s .esi)) (getReg s .edi))
      ((memPeek s (getReg s .esi) 1).setWidth 8)
      ((memPeek (memTouch s (getReg s .esi)) (getReg s .edi) 1).setWidth 8)) .esi) .edi) := by
  rw [handleCmps, operands0, memRead_of_ok (memReadOk_one ..), Run.bind_done, getReg_memTouch,
    memRead_of_ok (memReadOk_one ..), Run.bind_done]

end

-- ## The comparison of two bytes

/-- A comparison sets CF and ZF as SUB does (40_flag_module.md R111), after reads that kept the flags. -/
theorem compareBytes_obeys {s u : State} (kept : u.flags = s.flags) (a b : Byte) :
    FlagsObey (byteRules .sub a b (a - b)) s.flags (compareBytes u a b).flags :=
  kept ▸ flagsByte_obeys_byteRules _ _ _ _ _ (Config.drawBit u.draws) (Config.drawBit (u.draws + 1)) _ _

-- ## What they do

section
variable {s : State}

theorem lods_completes :
    ∃ t, exec (.lods []) s = .next t ∧ getReg8 t .al = (memPeek s (getReg s .esi) 1).setWidth 8 ∧
      (∀ i, 8 ≤ i → (getReg t .eax).getLsbD i = (getReg s .eax).getLsbD i) ∧
      (getReg t .esi).toNat = ((getReg s .esi).toNat + 1) % 2 ^ 32 ∧ RegsBut [.eax, .esi] s t ∧ SameMemory s t ∧
      t.flags = s.flags ∧ SameKeyboard (memTouch s (getReg s .esi)) t ∧ FellThrough s t := by
  have done : handler (.lods []) s = _ := handleLods_nil
  have within := (handler_ends _ s).of_done done
  obtain ⟨executed, fell⟩ := exec_of_quiet rfl done
  refine ⟨_, executed, ?al, fun i hi => ?upper, ?esi, within.regsBut,
    (memTouch_sameMemory ..).trans (SameDevices.sameMemory ?same), within.flags rfl, SameDevices.sameKeyboard ?same,
    fell⟩
  case same => exact (((SameDevices.refl _).setReg ..).bump _).setPc _
  case al => rw [getReg8_setPc, getReg8_bump_esi, getReg8_setReg8_same]
  case upper =>
    rw [getReg_setPc, getReg_bump_other (by decide), ← getReg_memTouch s (getReg s .esi) .eax]
    exact getLsbD_setReg8 _ .al _ (.inr hi)
  case esi => exact toNat_bump _ ((getReg_setReg8_other _ _ (by decide)).trans (getReg_memTouch ..))

theorem stos_completes (hs : Invariant s) (hw : memWriteOk s (getReg s .edi) 1 = true) :
    ∃ t, exec (.stos []) s = .next t ∧ StoredAt s (getReg s .edi) 1 ((getReg8 s .al).setWidth 32) t ∧
      (getReg t .edi).toNat = ((getReg s .edi).toNat + 1) % 2 ^ 32 ∧ RegsBut [.edi] s t ∧ t.flags = s.flags ∧
      SameKeyboard s t ∧ FellThrough s t := by
  obtain ⟨-, ⟨hbankA, -⟩, -, ⟨hpixels, -⟩, -⟩ := hs
  have done : handler (.stos []) s = _ := handleStos_nil hw
  have within := (handler_ends _ s).of_done done
  obtain ⟨executed, fell⟩ := exec_of_quiet rfl done
  have stored := storedAt_memPoke (v := (getReg8 s .al).setWidth 32) hbankA hpixels hw
  refine ⟨_, executed, stored.sameDevices ?same, toNat_bump _ (getReg_memPoke ..), within.regsBut, within.flags rfl,
    (memPoke_sameKeyboard ..).sameDevices ?same, fell⟩
  exact ((SameDevices.refl _).bump _).setPc _

theorem movs_completes (hs : Invariant s) (hw : memWriteOk s (getReg s .edi) 1 = true) :
    ∃ t, exec (.movs []) s = .next t ∧
      StoredAt (memTouch s (getReg s .esi)) (getReg s .edi) 1 (memPeek s (getReg s .esi) 1) t ∧
      (getReg t .esi).toNat = ((getReg s .esi).toNat + 1) % 2 ^ 32 ∧
      (getReg t .edi).toNat = ((getReg s .edi).toNat + 1) % 2 ^ 32 ∧ RegsBut [.esi, .edi] s t ∧
      t.flags = s.flags ∧ SameKeyboard (memTouch s (getReg s .esi)) t ∧ FellThrough s t := by
  obtain ⟨-, ⟨hbankA, -⟩, -, ⟨hpixels, -⟩, -⟩ := hs
  have stored : StoredAt (memTouch s (getReg s .esi)) (getReg s .edi) 1 (memPeek s (getReg s .esi) 1) _ :=
    storedAt_memPoke (by rwa [memTouch_bankA]) (by rwa [memTouch_pixels]) (by rwa [memWriteOk_memTouch])
  have done : handler (.movs []) s = _ := handleMovs_nil hw
  have within := (handler_ends _ s).of_done done
  obtain ⟨executed, fell⟩ := exec_of_quiet rfl done
  obtain ⟨esi, edi⟩ := toNat_bump_esi_edi (s.pc + 1) fun r =>
    (getReg_memPoke _ (getReg s .edi) 1 (memPeek s (getReg s .esi) 1) r).trans (getReg_memTouch s (getReg s .esi) r)
  refine ⟨_, executed, stored.sameDevices ?same, esi, edi, within.regsBut, within.flags rfl,
    (memPoke_sameKeyboard ..).sameDevices ?same, fell⟩
  exact (((SameDevices.refl _).bump _).bump _).setPc _

end

/-- Settles O51: each of the three makes its accesses at the old pointers, and then raises them. -/
theorem stringMoves : Obligations.StringMoves := by
  unfold Obligations.StringMoves
  exact fun s => ⟨lods_completes, fun hs hw => ⟨stos_completes hs hw, movs_completes hs hw⟩⟩

/-- Settles O52: the bytes are compared after the reads, which change neither memory nor the flags. -/
theorem stringCompares : Obligations.StringCompares := by
  unfold Obligations.StringCompares
  refine fun s => ⟨?scas, ?cmps⟩
  case scas =>
    have done : handler (.scas []) s = _ := handleScas_nil
    obtain ⟨executed, fell⟩ := exec_of_quiet rfl done
    refine ⟨_, executed, compareBytes_obeys (memTouch_flags ..) .., ?edi, ((handler_ends _ s).of_done done).regsBut,
      (memTouch_sameMemory ..).trans (SameDevices.sameMemory ?same), SameDevices.sameKeyboard ?same, fell⟩
    case same => exact (((SameDevices.refl _).compareBytes ..).bump _).setPc _
    case edi => exact toNat_bump _ (getReg_memTouch ..)
  case cmps =>
    have done : handler (.cmps []) s = _ := handleCmps_nil
    obtain ⟨executed, fell⟩ := exec_of_quiet rfl done
    have reads := (memTouch_sameMemory s (getReg s .esi)).trans (memTouch_sameMemory _ (getReg s .edi))
    obtain ⟨esi, edi⟩ := toNat_bump_esi_edi (s.pc + 1) fun r =>
      (getReg_memTouch (memTouch s (getReg s .esi)) (getReg s .edi) r).trans (getReg_memTouch ..)
    have kept : (memTouch (memTouch s (getReg s .esi)) (getReg s .edi)).flags = s.flags :=
      (memTouch_flags _ _).trans (memTouch_flags s _)
    refine ⟨_, executed, compareBytes_obeys kept .., esi, edi, ((handler_ends _ s).of_done done).regsBut,
      reads.trans (SameDevices.sameMemory ?same), SameDevices.sameKeyboard ?same, fell⟩
    exact ((((SameDevices.refl _).compareBytes ..).bump _).bump _).setPc _

end Sys2Proof.Machine
end

section
/-! # Interrupt and system

INT, INT3, HLT and IRET (47_interrupt_system.md R170 to R177): none is a control transfer, so each ends with what its
handler leaves and the next index. -/

namespace Sys2Proof.Machine

/-- An instruction outside the control flow whose handler completes goes on with what the handler leaves, and the next
index: `exec_of_quiet` for the instructions that may also halt. -/
theorem exec_of_handler_done {i : Instr} (hi : i.mnemonic ∉ controlMnemonics) {s u : State}
    (h : handler i s = .done () u) : exec i s = .next (setPc u (s.pc + 1)) := by
  have within : Evolves (footprint i) s u := (handler_ends i s).of_done h
  rw [exec_eq_advance hi, h, advance_done, finish_done, within.pc]

-- ## The services of INT

section
variable {s : State} {v : Word}

/-- The first service: the character of AL (47_interrupt_system.md R171). -/
theorem service_say_al (h : getReg8 s .ah = 0x0E) : service 0x10 s = say s (chr (getReg8 s .al)) := by
  rw [service, if_pos rfl, if_pos h]

/-- The second service: halting, whatever AH is (47_interrupt_system.md R172). -/
theorem service_halt : service 0x20 s = halt s := by
  rw [service, if_neg (by decide), if_pos rfl]

/-- The third service: the character of DL (47_interrupt_system.md R173). -/
theorem service_say_dl (h : getReg8 s .ah = 0x02) : service 0x21 s = say s (chr (getReg8 s .dl)) := by
  rw [service, if_neg (by decide), if_neg (by decide), if_pos rfl, if_pos h]

/-- Any other vector or function is no service (47_interrupt_system.md R174). -/
theorem service_eq_self (hal : ¬(v = 0x10 ∧ getReg8 s .ah = 0x0E)) (hdl : ¬(v = 0x21 ∧ getReg8 s .ah = 0x02))
    (hhalt : v ≠ 0x20) : service v s = s := by
  rw [service]
  by_cases h10 : v = 0x10
  · rw [if_pos h10, if_neg fun hah => hal ⟨h10, hah⟩]
  rw [if_neg h10, if_neg hhalt]
  by_cases h21 : v = 0x21
  · rw [if_pos h21, if_neg fun hah => hdl ⟨h21, hah⟩]
  · rw [if_neg h21]

end

-- ## INT

theorem formInt_of_ne_imm {op : Operand} (h : ∀ n, op ≠ .imm n) : formInt op = .never := by
  cases op with
  | imm n => exact absurd rfl (h n)
  | _ => rfl

theorem handleInt_imm (v : Word) (s : State) : handleInt [.imm v] s = .done () (service v s) := by
  rw [handleInt, operands1_resolved rfl, formInt, Form.check, readOp_of_ok rfl, Run.bind_done]
  rfl

/-- INT of an immediate: the service that it selects, and the next index (47_interrupt_system.md R170). -/
theorem exec_int_imm (v : Word) (s : State) : exec (.int [.imm v]) s = .next (setPc (service v s) (s.pc + 1)) :=
  exec_of_handler_done (i := .int _) (show Mnemonic.int ∉ controlMnemonics by decide) (handleInt_imm v s)

/-- INT of a register or memory operand is refused by its form, an 8-bit register like the others
(47_interrupt_system.md R170, log entry 15). -/
theorem exec_int_refused {op : Operand} (hr : op.resolved = true) (h : ∀ n, op ≠ .imm n) (s : State) :
    exec (.int [op]) s = .refused .formNotAdmitted := by
  have refused : handler (.int [op]) s = .refused .formNotAdmitted := by
    rw [handler, handleInt, operands1_resolved hr, formInt_of_ne_imm h]
    rfl
  exact exec_of_handler_refused refused

/-- Settles O53: INT by the service that its vector and AH select, and INT3, HLT and IRET by their handlers. -/
theorem interruptAndSystem : Obligations.InterruptAndSystem := by
  unfold Obligations.InterruptAndSystem
  refine fun s v => ⟨?say_al, ?say_dl, ?halts, ?no_service, fun op hr h => exec_int_refused hr h s, ?int3, ?hlt,
    ?iret⟩
  case say_al =>
    rintro rfl hah
    rw [exec_int_imm, service_say_al hah]
    rfl
  case say_dl =>
    rintro rfl hah
    rw [exec_int_imm, service_say_dl hah]
    rfl
  case halts =>
    rintro rfl
    rw [exec_int_imm, service_halt]
    rfl
  case no_service =>
    intro hal hdl hhalt
    rw [exec_int_imm, service_eq_self hal hdl hhalt]
    rfl
  case int3 => exact exec_of_handler_done (u := halt s) (by decide) rfl
  case hlt => exact exec_of_handler_done (u := halt s) (by decide) rfl
  case iret => exact exec_of_handler_done (u := s) (by decide) rfl

end Sys2Proof.Machine
end

section
/-! # Control flow

A labelled instruction is a branch: its handler does nothing or decrements ECX, and then the stepper looks the label up
(48_control_flow.md R182 to R206). -/

namespace Sys2Proof.Machine

-- ## Labels that exist

/-- A branch that finds its label goes on from what the handler left. -/
theorem finish_branch_found {m : Mnemonic} {name : Text} {s : State} {effect : State → State}
    {go : Nat → State → State} {target : Nat} (h : (effect s).labels.lookup name = some target) :
    finish (branch m [name] (oneLabel [name] s effect) go) = .next (go target (effect s)) := by
  rw [branch_found h, finish_done]

/-- The twelve Jcc are one branch with the condition of each (48_control_flow.md R185). -/
theorem jcc_of_mem_jumps {p : Cond × (List Text → Instr)} (h : p ∈ jumps) (name : Text) :
    ∃ m, ∀ s, exec (p.2 [name]) s =
      finish (branch m [name] (oneLabel [name] s id) fun t s1 => goIf (holds p.1 s1.flags) t s1) := by
  simp only [jumps, List.mem_cons, List.not_mem_nil, or_false] at h
  obtain rfl | rfl | rfl | rfl | rfl | rfl | rfl | rfl | rfl | rfl | rfl | rfl := h
  all_goals exact ⟨_, fun _ => rfl⟩

theorem exec_ret (s : State) : exec (.ret []) s = .next (returnTo s) := rfl

theorem returnTo_of_empty {s : State} (h : s.cs = []) : returnTo s = setPc s (s.pc + 1) := by rw [returnTo, h]

theorem returnTo_of_cons {s : State} {target : Nat} {rest : List Nat} (h : s.cs = target :: rest) :
    returnTo s = setPc (setCs s rest) target := by rw [returnTo, h]

/-- Settles O54: JMP, the Jcc and CALL find their label, and RET looks none up. -/
theorem jumpsCallsAndReturns : Obligations.JumpsCallsAndReturns := by
  unfold Obligations.JumpsCallsAndReturns
  refine ⟨fun s name target found => ⟨finish_branch_found found, fun p hp => ?_, finish_branch_found found⟩, fun s =>
    ⟨fun empty => ?_, fun target rest saved => ?_⟩⟩
  · obtain ⟨m, exec_eq⟩ := jcc_of_mem_jumps hp name
    rw [exec_eq, finish_branch_found found]
    rfl
  · exact congrArg Host.Outcome.next (returnTo_of_empty empty)
  · exact congrArg Host.Outcome.next (returnTo_of_cons saved)

-- ## The loop counter

section
variable (s : State)

/-- The counter goes down by 1 modulo 2^32 (48_control_flow.md R200). -/
theorem countDown_ecx :
    ((getReg (countDown s) .ecx).toNat : Int) = ((getReg s .ecx).toNat - 1 : Int) % 2 ^ 32 := by
  rw [countDown, getReg_setReg_same, BitVec.toNat_sub]
  have one : (1 : Word).toNat = 1 := rfl
  omega

theorem regsBut_countDown : RegsBut [.ecx] s (countDown s) := fun q hq =>
  getReg_setReg_other s .ecx q _ (List.ne_of_not_mem_cons hq)

/-- The counter reaches 0 from 1 alone. -/
theorem countDown_ne_zero : (getReg (countDown s) .ecx != 0) = decide (getReg s .ecx ≠ 1) := by
  rw [countDown, getReg_setReg_same]
  rw [Bool.eq_iff_iff, bne_iff_ne, decide_eq_true_iff, ne_eq, ne_eq, sub_eq_zero]

/-- What a LOOP leaves, with `also` the condition beside the counter (48_control_flow.md R200 to R205). -/
theorem goIf_countDown (also : Bool) (target : Nat) :
    let t := goIf (getReg (countDown s) .ecx != 0 && also) target (countDown s)
    ((getReg t .ecx).toNat : Int) = ((getReg s .ecx).toNat - 1 : Int) % 2 ^ 32 ∧ RegsBut [.ecx] s t ∧
      t.pc = (if getReg s .ecx ≠ 1 ∧ also = true then target else s.pc + 1) ∧
      SameMemory s t ∧ t.flags = s.flags ∧ SameKeyboard s t ∧ SameControl s t := by
  refine ⟨countDown_ecx s, regsBut_countDown s, ?_, .of_eq rfl rfl rfl, rfl, ⟨rfl, rfl, rfl⟩,
    ⟨rfl, rfl, rfl, rfl, rfl, rfl, rfl, rfl, rfl, rfl, rfl, rfl⟩⟩
  rw [countDown_ne_zero, goIf, setPc_pc]
  simp only [Bool.and_eq_true, decide_eq_true_eq]
  rfl

end

/-- Settles O55: each LOOP is one branch after the decrement. -/
theorem loops : Obligations.Loops := by
  unfold Obligations.Loops
  intro s name target found
  have labels : (countDown s).labels.lookup name = some target := found
  refine ⟨⟨_, finish_branch_found labels, ?_⟩, ⟨_, finish_branch_found labels, goIf_countDown s _ target⟩,
    ⟨_, finish_branch_found labels, goIf_countDown s _ target⟩,
    ⟨_, finish_branch_found labels, goIf_countDown s _ target⟩,
    ⟨_, finish_branch_found labels, goIf_countDown s _ target⟩⟩
  have plain := goIf_countDown s true target
  rwa [Bool.and_true] at plain

-- ## Labels that do not exist

/-- Every labelled instruction is a branch, after a handler that leaves the labels, pc and the call stack alone
(48_control_flow.md R182). -/
theorem branch_of_mem_labelled {mk : List Text → Instr} (h : mk ∈ labelled) :
    ∃ effect go, (∀ name s, exec (mk [name]) s =
        finish (branch (mk [name]).mnemonic [name] (oneLabel [name] s effect) go)) ∧
      ∀ s, (effect s).labels = s.labels ∧ (effect s).pc = s.pc ∧ (effect s).cs = s.cs := by
  simp only [labelled, List.mem_cons, List.not_mem_nil, or_false] at h
  obtain rfl | rfl | rfl | rfl | rfl | rfl | rfl | rfl | rfl | rfl | rfl | rfl | rfl | rfl | rfl | rfl | rfl | rfl |
    rfl := h
  all_goals exact ⟨_, _, fun _ _ => rfl, fun _ => ⟨rfl, rfl, rfl⟩⟩

theorem faulted_returnTo (s : State) : (returnTo s).faulted = s.faulted := by
  unfold returnTo
  split <;> rfl

theorem report_returnTo (s : State) : (returnTo s).report = s.report := by
  unfold returnTo
  split <;> rfl

/-- Settles O56: the label is looked up whatever the condition, and a fault keeps pc and the call stack. -/
theorem missingLabels : Obligations.MissingLabels := by
  unfold Obligations.MissingLabels
  refine ⟨fun mk hmk s name missing => ?_, fun s => ⟨_, exec_ret s, faulted_returnTo s⟩⟩
  obtain ⟨effect, go, exec_eq, leaves⟩ := branch_of_mem_labelled hmk
  obtain ⟨labels, pc, cs⟩ := leaves s
  refine ⟨_, ?_, takeFault_faulted .., takeFault_report .., (takeFault_pc ..).trans pc, (takeFault_cs ..).trans cs⟩
  rw [exec_eq, branch_missing (by rwa [labels]), finish_raised]

-- ## Without the stepper

/-- EXEC runs the handler of the decoded record, with nothing in the report (70_reset_and_hazards.md R228). -/
theorem hostExec_of_decode {s : State} {rec : Record} {i : Instr} (hf : s.faulted = false) (hd : decode rec = .ok i) :
    hostExec s rec = finish (handler i (setReport s .nothing)) := by
  rw [hostExec, hf, if_neg Bool.false_ne_true, hd]

theorem oneLabel_of_labelForm {labels : List Text} (h : labelForm labels = true) (s : State)
    (effect : State → State) : oneLabel labels s effect = .done () (effect s) := by
  unfold labelForm at h
  split at h
  · rfl
  · cases h

/-- The handlers of JMP, the Jcc, CALL and RET do nothing (48_control_flow.md R206). -/
theorem handler_of_jump {i : Instr} (hwf : i.wf = true)
    (hi : i.mnemonic ∈ [.jmp, .je, .jne, .jg, .jge, .jl, .jle, .js, .jns, .ja, .jae, .jb, .jbe, .call, .ret])
    (s : State) : handler i s = .done () s := by
  cases i with
  | jmp labels | je labels | jne labels | jg labels | jge labels | jl labels | jle labels | js labels | jns labels
  | ja labels | jae labels | jb labels | jbe labels | call labels => exact oneLabel_of_labelForm hwf s id
  | ret labels =>
    obtain rfl := List.isEmpty_iff.mp hwf
    rfl
  | _ => simp [Instr.mnemonic] at hi

/-- The handlers of the LOOP family decrement ECX and do nothing else (48_control_flow.md R206). -/
theorem handler_of_loop {i : Instr} (hwf : i.wf = true) (hi : i.mnemonic ∈ [.loop, .loope, .loopne, .loopz, .loopnz])
    (s : State) : handler i s = .done () (countDown s) := by
  cases i with
  | loop labels | loope labels | loopne labels | loopz labels | loopnz labels =>
    exact oneLabel_of_labelForm hwf s countDown
  | _ => simp [Instr.mnemonic] at hi

/-- Settles O58: EXEC runs the handler, which looks up no label. -/
theorem execWithoutStepper : Obligations.ExecWithoutStepper := by
  unfold Obligations.ExecWithoutStepper
  intro s rec i hf hd hwf
  rw [hostExec_of_decode hf hd]
  refine ⟨fun hi => ⟨.nothing, ?_⟩, fun hi => ⟨countDown (setReport s .nothing), .nothing, ?_, ?_⟩⟩
  · rw [handler_of_jump hwf hi]
    rfl
  · rw [handler_of_loop hwf hi]
    rfl
  · exact ⟨countDown_ecx _, regsBut_countDown _, rfl⟩

end Sys2Proof.Machine
end

section
/-! # The step

What STEP does with the record at pc, and what it does at rest (48_control_flow.md R178 to R180). -/

namespace Sys2Proof.Machine

/-- No instruction answers a fault of the model (log entry 5). -/
theorem exec_ne_fault (i : Instr) (s : State) (f : Fault) : exec i s ≠ .fault f := by
  obtain ⟨k, hk⟩ := exists_stepperPart i
  rw [hk.exec_eq]
  exact finish_ne_fault _ f

/-- The end of a step, as one change of two fields. -/
theorem endOfStep_eq (line : Int) (t : State) :
    endOfStep line t =
      { t with halted := t.halted || decide (t.prog.length ≤ t.pc), report := .returned line } := by
  unfold endOfStep
  split
  · next past => rw [decide_eq_true past, Bool.or_true]; rfl
  · next inside => rw [decide_eq_false inside, Bool.or_false]; rfl

section
variable {s : State} (hc : configOk s.cfg = true)
include hc

theorem step_of_faulted (hf : s.faulted = true) : step s = .fault .stepWhileFaulted := by
  simp [step, stepWith, hc, hf]

variable (hf : s.faulted = false)
include hf

theorem step_of_halted (hh : s.halted = true) : step s = .next (setReport s (.returned (-1))) := by
  simp [step, stepWith, hc, hf, hh]

variable (hh : s.halted = false)
include hh

theorem step_of_fetch_none (h : fetch s = none) : step s = .next (setReport (halt s) (.returned (-1))) := by
  simp [step, stepWith, hc, hf, hh, h]

/-- A Runnable step runs the decoded instruction and ends as the stepper says. -/
theorem step_of_decode {rec : Record} {i : Instr} (h : fetch s = some rec) (hd : decode rec = .ok i) :
    step s = finishStep rec.line (exec i s) := by
  simp [step, stepWith, hc, hf, hh, h, hd]

end

/-- Settles O14: by the outcome of the instruction. -/
theorem stepRunsDecoded : Obligations.StepRunsDecoded := by
  unfold Obligations.StepRunsDecoded
  intro s rec i hc hf hh fetched decoded
  rw [step_of_decode hc hf hh fetched decoded]
  refine ⟨fun r h => ?_, fun t h ht => ?_, fun t h ht => ?_, exec_ne_fault i s⟩
  · rw [h, finishStep]
  · rw [h, finishStep, if_pos ht]
  · rw [h, finishStep, ht, if_neg Bool.false_ne_true, endOfStep_eq, ht]

/-- Settles O15: the checks of STEP, in their order. -/
theorem stepAtRest : Obligations.StepAtRest := by
  unfold Obligations.StepAtRest
  exact fun s hc => ⟨step_of_faulted hc, step_of_halted hc, fun hf hh past =>
    step_of_fetch_none hc hf hh (List.getElem?_eq_none past)⟩

end Sys2Proof.Machine
end

section
/-! # The device registers (60_exceptions.md R214, R215)

An access that starts at a device is one access of its register, whatever its width (20_memory.md R54). -/

namespace Sys2Proof.Machine

-- ## Accesses of a device

section
variable {s : State} {a : Word} (h : isMmio s.cfg a.toNat = true) (n : Nat)
include h

theorem memRead_of_mmio : memRead s a n = .done ((devPeek s a.toNat).setWidth 32) (devTouch s a.toNat) := by
  simp [memRead, memReadOk, mixedMmio, memPeek, memTouch, h]

theorem memWriteOk_of_mmio : memWriteOk s a n = true := by simp [memWriteOk, h]

theorem memPoke_of_mmio (v : Word) : memPoke s a n v = devPoke s a.toNat (v.setWidth 8) := if_pos h

end

theorem isMmio_of_lcd {c : Config} {a : Nat} (h : classify c a = .lcd) : isMmio c a = true := by rw [isMmio, h]

theorem isMmio_of_kbd {c : Config} {a : Nat} (h : classify c a = .kbd) : isMmio c a = true := by rw [isMmio, h]

-- ## The LCD

section
variable {s : State} {a : Nat} (h : classify s.cfg a = .lcd)
include h

theorem devPeek_of_lcd : devPeek s a = 0 := by rw [devPeek, h]

theorem devTouch_of_lcd : devTouch s a = s := by rw [devTouch, h]

end

/-- Settles O10: a read of the display touches nothing, and a write is stored in one pixel. -/
theorem lcdRegisters : Obligations.LcdRegisters := by
  unfold Obligations.LcdRegisters
  intro s a v n hs lcd
  have mmio := isMmio_of_lcd lcd
  have writes := memWriteOk_of_mmio mmio n
  obtain ⟨-, ⟨hbankA, -⟩, -, ⟨hpixels, -⟩, -⟩ := hs
  have stored : StoredAt s a n v (memPoke s a n v) := storedAt_memPoke hbankA hpixels writes
  unfold StoredAt at stored
  rw [lcd] at stored
  obtain ⟨pixel, others, -⟩ := stored
  refine ⟨?_, memPoke s a n v, memWrite_of_ok writes v, pixel, others, ?_⟩
  · rw [memRead_of_mmio mmio, devPeek_of_lcd lcd, devTouch_of_lcd lcd]
    rfl
  · rw [memPoke_of_mmio mmio]
    obtain same | ⟨-, poked⟩ := devPoke_cases s a.toNat (v.setWidth 8)
    · rw [same]
    · rw [poked]
      rfl

-- ## The keyboard

section
variable {s : State} {a : Nat} (h : classify s.cfg a = .kbd)
include h

theorem devPeek_of_kbd : devPeek s a =
    if a = s.cfg.kbdBase then keyStatus s else if a = s.cfg.kbdBase + 1 then keyCode s else s.lastState := by
  rw [devPeek, h]

theorem devTouch_of_kbd : devTouch s a = if a = s.cfg.kbdBase + 1 then afterKeyCode s else s := by rw [devTouch, h]

theorem devPoke_of_kbd (b : Byte) : devPoke s a b = s := by rw [devPoke, h]

end

theorem keyStatus_eq (s : State) : (keyStatus s).setWidth 32 = if s.kq = [] then (0 : Word) else 1 := by
  unfold keyStatus
  cases s.kq <;> rfl

section
variable {s : State}

theorem keyCode_of_cons {code : Byte} {pressed : Bool} {rest : List (Byte × Bool)}
    (h : s.kq = (code, pressed) :: rest) : keyCode s = code := by rw [keyCode, h]

theorem afterKeyCode_of_cons {event : Byte × Bool} {rest : List (Byte × Bool)} (h : s.kq = event :: rest) :
    afterKeyCode s = popEvent s event rest := by rw [afterKeyCode, h]

theorem afterKeyCode_of_nil (h : s.kq = []) : afterKeyCode s = addDraws s 1 := by rw [afterKeyCode, h]

end

/-- Settles O11: by the register at the address. -/
theorem keyboardRegisters : Obligations.KeyboardRegisters := by
  unfold Obligations.KeyboardRegisters
  intro s a n _ kbd
  have mmio := isMmio_of_kbd kbd
  rw [memRead_of_mmio mmio, devPeek_of_kbd kbd, devTouch_of_kbd kbd]
  refine ⟨fun status => ?status, fun keycode code pressed rest queue => ?pop, fun keycode empty => ?empty,
    fun keystate => ?keystate, fun v => ?write⟩
  case status => rw [if_pos status, if_neg (by omega), keyStatus_eq]
  case pop =>
    rw [if_neg (by omega), if_pos keycode, if_pos keycode, keyCode_of_cons queue, afterKeyCode_of_cons queue]
    rfl
  case empty =>
    rw [if_neg (by omega), if_pos keycode, if_pos keycode, afterKeyCode_of_nil empty]
    exact ⟨keyCode s, rfl⟩
  case keystate => rw [if_neg (by omega), if_neg (by omega), if_neg (by omega)]
  case write => rw [memWrite_of_ok (memWriteOk_of_mmio mmio n), memPoke_of_mmio mmio, devPoke_of_kbd kbd]

end Sys2Proof.Machine
end

section
/-! # The host operations

`HostOp.Leaves` says once what state each host operation leaves; the invariant and the frame of a fault are read off
from it (70_reset_and_hazards.md R225 to R242). -/

namespace Sys2Proof.Machine

-- ## RESET and LOAD

/-- Settles O57: each field is written out in `hostReset` and `hostLoad`. -/
theorem resetAndLoad : Obligations.ResetAndLoad := by
  unfold Obligations.ResetAndLoad
  intro s
  have regs : ∀ r, getReg (hostReset s) r = if r = .esp then s.cfg.spReset else 0 := fun r => by cases r <;> rfl
  exact ⟨⟨regs, rfl, fun _ => ⟨rfl, rfl, rfl⟩, rfl, rfl, rfl, rfl, rfl, rfl, rfl, rfl, rfl, rfl, rfl, rfl, rfl⟩,
    fun _ _ => ⟨rfl, rfl, rfl, rfl, rfl, rfl, rfl, rfl, rfl, rfl, rfl, ⟨rfl, rfl, rfl⟩, rfl, rfl, rfl, rfl⟩⟩

-- ## Breakpoints

/-- A line put into a list of lines is in it, beside those that were. -/
theorem mem_insertLine {line l : Int} {lines : List Int} : l ∈ insertLine line lines ↔ l = line ∨ l ∈ lines := by
  induction lines with
  | nil => simp [insertLine]
  | cons k rest ih =>
    unfold insertLine
    split_ifs with hlt heq
    · exact List.mem_cons
    · simp [heq]
    · rw [List.mem_cons, List.mem_cons, ih, or_left_comm]

/-- A line put into a rising list leaves it rising. -/
theorem pairwise_insertLine (line : Int) {lines : List Int} (h : lines.Pairwise (· < ·)) :
    (insertLine line lines).Pairwise (· < ·) := by
  induction lines with
  | nil => exact List.pairwise_singleton ..
  | cons k rest ih =>
    obtain ⟨least, rising⟩ := List.pairwise_cons.mp h
    unfold insertLine
    split_ifs with hlt heq
    · refine List.pairwise_cons.mpr ⟨fun l hl => ?_, h⟩
      obtain rfl | hl := List.mem_cons.mp hl
      · exact hlt
      · exact lt_trans hlt (least l hl)
    · exact h
    · refine List.pairwise_cons.mpr ⟨fun l hl => ?_, ih rising⟩
      obtain rfl | hl := mem_insertLine.mp hl
      · omega
      · exact least l hl

/-- Settles O59: membership in the new list of lines. -/
theorem breakpointSet : Obligations.BreakpointSet := by
  unfold Obligations.BreakpointSet
  refine fun s line => ⟨fun l => mem_insertLine, fun l => ?_, rfl, rfl⟩
  simp [hostBpRemove]

-- ## What a host operation leaves

/-- The state `t` that an operation leaves, from `s`. -/
def HostOp.Leaves (op : HostOp) (s t : State) : Prop :=
  match op with
  | .load records labels => (labels.map Prod.fst).Nodup ∧ t = hostLoad s records labels
  | .step => Machine.step s = .next t
  | .exec rec => hostExec s rec = .next t
  | .reset => t = hostReset s
  | .setMode m => t = hostSetMode s m
  | .kbdPush code pressed => t = hostKbdPush s (BitVec.ofNat 8 code) pressed
  | .kbdPop => t = hostKbdPop s
  | .bpAdd line => t = hostBpAdd s line
  | .bpRemove line => t = hostBpRemove s line
  | .setRunning b => t = hostSetRunning s b
  | .consoleClear => t = hostConsoleClear s
  | .readIo addr => t = (hostReadIo s addr).1
  | .writeIo addr v => t = (hostWriteIo s addr v).1
  | .snapshot | .regRead _ | .memDump .. | .lcdDump | .kbdPeek | .consoleRead => t = s

section
variable {s t u : State} {r : HostResult}

theorem withReport_eq_next {o : Host.Outcome State Fault Refusal} (h : withReport o = .next (t, r)) : o = .next t := by
  cases o with
  | next u =>
    cases h
    rfl
  | fault f | refused q => cases h

theorem require_eq_next {holds : Bool} {result : HostResult} (h : require holds u result = .next (t, r)) :
    holds = true ∧ t = u := by
  unfold require at h
  split at h
  · next hh =>
    cases h
    exact ⟨hh, rfl⟩
  · cases h

/-- What a host operation that answers next left. -/
theorem hostStep_leaves {op : HostOp} (h : hostStep op s = .next (t, r)) : op.Leaves s t := by
  unfold hostStep at h
  split at h
  · cases h
  · cases op with
    | load records labels =>
      obtain ⟨nodup, rfl⟩ := require_eq_next h
      exact ⟨of_decide_eq_true nodup, rfl⟩
    | step | exec rec => exact withReport_eq_next h
    | kbdPush code pressed | memDump bank start len => exact (require_eq_next h).2
    | kbdPop =>
      dsimp only at h
      split at h
      · next empty =>
        cases h
        rw [HostOp.Leaves, hostKbdPop, empty]
      · cases h
        rfl
    | regRead name =>
      dsimp only at h
      split at h
      · cases h
        rfl
      · cases h
    | _ =>
      cases h
      rfl

end

-- ## Each operation keeps the invariant

section
variable {s t : State} (hs : Invariant s)
include hs

theorem hostLoad_invariant (records : List Record) {labels : List (Text × Nat)}
    (nodup : (labels.map Prod.fst).Nodup) : Invariant (hostLoad s records labels) := by
  obtain ⟨hcfg, hbankA, hbankB, hpixels, hflags, -, hkey, -, hbps⟩ := hs
  exact ⟨hcfg, hbankA, hbankB, hpixels, hflags, rfl, hkey, nodup, hbps⟩

theorem hostReset_invariant : Invariant (hostReset s) := by
  obtain ⟨hcfg, -, -, -, -, -, -, hlabels, hbps⟩ := hs
  obtain ⟨bankA, bankB, pixels⟩ := hostReset_memory_wf s
  exact ⟨hcfg, ⟨bankA, nofun⟩, ⟨bankB, nofun⟩, ⟨pixels, nofun⟩, (by decide : reservedClear 0), rfl, .inl rfl, hlabels,
    hbps⟩

/-- Other breakpoints keep the invariant when they rise (log entry 20). -/
theorem bps_invariant {lines : List Int} (rising : lines.Pairwise (· < ·)) : Invariant { s with bps := lines } := by
  obtain ⟨hcfg, hbankA, hbankB, hpixels, hflags, hrun, hkey, hlabels, -⟩ := hs
  exact ⟨hcfg, hbankA, hbankB, hpixels, hflags, hrun, hkey, hlabels, rising⟩

theorem hostKbdPop_invariant : Invariant (hostKbdPop s) := by
  unfold hostKbdPop
  split
  · exact hs
  · exact popEvent_invariant hs ..

theorem devTouch_invariant (a : Nat) : Invariant (devTouch s a) := by
  obtain e | e | ⟨event, rest, -, e⟩ := devTouch_cases s a <;> rw [e]
  · exact hs
  · exact hs
  · exact popEvent_invariant hs event rest

theorem devPoke_invariant (a : Nat) (b : Byte) : Invariant (devPoke s a b) := by
  obtain e | ⟨inside, e⟩ := devPoke_cases s a b <;> rw [e]
  · exact hs
  · obtain ⟨hcfg, hbankA, hbankB, ⟨hpwf, hpb⟩, hrest⟩ := hs
    exact ⟨hcfg, hbankA, hbankB, ⟨Memory.write_wf hpwf .., Memory.write_below hpb inside _⟩, hrest⟩

end

theorem hostExec_eq_next {s t : State} {rec : Record} (h : hostExec s rec = .next t) :
    s.faulted = false ∧ ∃ i, decode rec = .ok i ∧ finish (handler i (setReport s .nothing)) = .next t := by
  unfold hostExec at h
  split at h
  · cases h
  · next hf =>
    split at h
    · cases h
    · next i hd => exact ⟨eq_false_of_ne_true hf, i, hd, h⟩

theorem hostExec_invariant {s t : State} (hs : Invariant s) {rec : Record} (h : hostExec s rec = .next t) :
    Invariant t := by
  obtain ⟨hf, i, -, h⟩ := hostExec_eq_next h
  have ends := handler_ends i (setReport s .nothing)
  obtain done | ⟨e, u, raised, rfl⟩ := finish_eq_next.mp h
  · exact (ends.of_done done).invariant hs hf
  · exact takeFault_invariant ((ends.of_raised raised).invariant hs hf) e

/-- Settles O60: operation by operation, from the state it leaves. -/
theorem hostInvariantKept : Obligations.HostInvariantKept := by
  unfold Obligations.HostInvariantKept
  intro op s t r hs h
  have leaves := hostStep_leaves h
  cases op with
  | load records labels =>
    obtain ⟨nodup, rfl⟩ := leaves
    exact hostLoad_invariant hs records nodup
  | step => exact invariantKept s t hs leaves
  | exec rec => exact hostExec_invariant hs leaves
  | reset =>
    obtain rfl := leaves
    exact hostReset_invariant hs
  | kbdPop =>
    obtain rfl := leaves
    exact hostKbdPop_invariant hs
  | bpAdd line =>
    obtain rfl := leaves
    have ⟨_, _, _, _, _, _, _, _, rising⟩ := hs
    exact bps_invariant hs (pairwise_insertLine line rising)
  | bpRemove line =>
    obtain rfl := leaves
    have ⟨_, _, _, _, _, _, _, _, rising⟩ := hs
    exact bps_invariant hs (rising.filter _)
  | readIo addr =>
    obtain rfl := leaves
    unfold hostReadIo
    split
    · exact devTouch_invariant hs addr
    · exact hs
  | writeIo addr v =>
    obtain rfl := leaves
    unfold hostWriteIo
    split
    · exact devPoke_invariant hs ..
    · exact hs
  | _ =>
    obtain rfl := leaves
    exact hs

end Sys2Proof.Machine
end

section
/-! # Faults

What a fault of a step, of EXEC and of a device access fixes, and what leaves the Faulted state (60_exceptions.md
R209). -/

namespace Sys2Proof.Machine

-- ## An error of a handler leaves the console

theorem wrongCount_eq_raised {m : Mnemonic} {n : Nat} {s u : State} {e : EngineFault}
    (h : wrongCount m n s = .raised e u) : u = s := by
  unfold wrongCount at h
  split_ifs at h
  split at h <;> cases h
  rfl

/-- INT raises its error before it does anything (60_exceptions.md R219). -/
theorem handleInt_eq_raised {ops : List Operand} {s u : State} {e : EngineFault}
    (h : handleInt ops s = .raised e u) : u = s := by
  unfold handleInt operands1 at h
  split at h
  · next n =>
    cases n with
    | malformed tok =>
      cases h
      rfl
    | _ => cases h
  · exact wrongCount_eq_raised h

/-- No error comes after a character was written to the console. -/
theorem handler_raised_console {i : Instr} {s u : State} {e : EngineFault} (h : handler i s = .raised e u) :
    u.console = s.console := by
  cases i with
  | int ops => rw [handleInt_eq_raised h]
  | _ => exact ((handler_ends _ s).of_raised h).console rfl

-- ## What a fault keeps

/-- What every error fixes, in a state that a handler made of `s` (60_exceptions.md R209). -/
structure TookFault (s t : State) : Prop where
  halted : t.halted = false
  report : ∃ e, t.report = .raised e
  pc : t.pc = s.pc
  cs : t.cs = s.cs
  console : t.console = s.console
  host : SameHostFields s t

section
variable {i : Instr} {s t : State}

theorem Evolves.tookFault {fp : Footprint} {u : State} (h : Evolves fp s u) (hc : u.console = s.console)
    (e : EngineFault) : TookFault s (takeFault e u) where
  halted := takeFault_halted ..
  report := ⟨e, takeFault_report ..⟩
  pc := (takeFault_pc ..).trans h.pc
  cs := (takeFault_cs ..).trans h.cs
  console := (takeFault_console ..).trans hc
  host := h.sameHostFields.trans (takeFault_sameHostFields e u)

/-- INT that ends in a fault wrote nothing to the console. -/
theorem exec_int_console_of_faulted {ops : List Operand} (h : exec (.int ops) s = .next t) (hs : s.faulted = false)
    (ht : t.faulted = true) : t.console = s.console := by
  have advanced : finish (advance (handleInt ops s)) = .next t := h
  obtain done | ⟨e, u, raised, rfl⟩ := finish_eq_next.mp advanced
  · obtain ⟨u, hu, rfl⟩ := advance_eq_done.mp done
    have runs : u.faulted = s.faulted := Evolves.faulted ((handler_ends (.int ops) s).of_done hu)
    rw [setPc_faulted, runs, hs] at ht
    cases ht
  · obtain raised | ⟨_, _, -, advances⟩ := Run.bind_eq_raised.mp raised
    · rw [takeFault_console, handleInt_eq_raised raised]
    · cases advances

theorem exec_console_of_faulted (h : exec i s = .next t) (hs : s.faulted = false) (ht : t.faulted = true) :
    t.console = s.console := by
  cases i with
  | int ops => exact exec_int_console_of_faulted h hs ht
  | _ => exact exec_console h (by simp [Instr.mnemonic])

/-- An instruction that ends in the Faulted state took an error. -/
theorem exec_tookFault (h : exec i s = .next t) (hs : s.faulted = false) (ht : t.faulted = true) :
    TookFault s t := by
  have console := exec_console_of_faulted h hs ht
  obtain ⟨u, -, hu, redirected⟩ | ⟨e, u, hu, rfl⟩ := exec_eq_next h
  · rw [redirected.faulted, hu.faulted, hs] at ht
    cases ht
  · exact hu.tookFault ((takeFault_console ..).symm.trans console) e

theorem endOfStep_faulted (line : Int) (s : State) : (endOfStep line s).faulted = s.faulted := by
  rw [endOfStep_eq]

/-- A step that ends in the Faulted state ran an instruction that took an error. -/
theorem step_tookFault (h : step s = .next t) (ht : t.faulted = true) : TookFault s t := by
  obtain ⟨-, hs, ⟨-, rfl⟩ | ⟨-, -, rfl⟩ | ⟨-, rec, i, u, -, -, executed, rfl⟩⟩ := stepWith_eq_next h
  · rw [setReport_faulted, hs] at ht
    cases ht
  · rw [setReport_faulted, halt_faulted, hs] at ht
    cases ht
  · by_cases hu : u.faulted = true
    · rw [if_pos hu]
      exact exec_tookFault executed hs hu
    · rw [if_neg hu, endOfStep_faulted] at ht
      exact absurd ht hu

/-- An EXEC that ends in the Faulted state ran a handler that raised an error. -/
theorem hostExec_tookFault {rec : Record} (h : hostExec s rec = .next t) (ht : t.faulted = true) : TookFault s t := by
  obtain ⟨hs, i, -, h⟩ := hostExec_eq_next h
  have ends := handler_ends i (setReport s .nothing)
  obtain done | ⟨e, u, raised, rfl⟩ := finish_eq_next.mp h
  · rw [(ends.of_done done).faulted, setReport_faulted, hs] at ht
    cases ht
  · obtain ⟨halted, report, pc, cs, console, ⟨cfg, mode, running, bankB, bps, prog, labels⟩⟩ :=
      (ends.of_raised raised).tookFault (handler_raised_console raised) e
    exact ⟨halted, report, pc, cs, console, ⟨cfg, mode, running, bankB, bps, prog, labels⟩⟩

end

-- ## Leaving the Faulted state

theorem devTouch_faulted (s : State) (a : Nat) : (devTouch s a).faulted = s.faulted := by
  obtain e | e | ⟨event, rest, -, e⟩ := devTouch_cases s a <;> rw [e]
  · exact addDraws_faulted ..
  · exact popEvent_faulted ..

theorem devPoke_faulted (s : State) (a : Nat) (b : Byte) : (devPoke s a b).faulted = s.faulted := by
  obtain e | ⟨-, e⟩ := devPoke_cases s a b <;> rw [e]
  exact setPixels_faulted ..

theorem hostKbdPop_faulted (s : State) : (hostKbdPop s).faulted = s.faulted := by
  unfold hostKbdPop
  split <;> rfl

theorem hostReadIo_faulted (s : State) (addr : Nat) : (hostReadIo s addr).1.faulted = s.faulted := by
  unfold hostReadIo
  split
  · exact devTouch_faulted ..
  · rfl

theorem hostWriteIo_faulted (s : State) (addr : Nat) (v : Int) : (hostWriteIo s addr v).1.faulted = s.faulted := by
  unfold hostWriteIo
  split
  · exact devPoke_faulted ..
  · rfl

/-- In the Faulted state STEP and EXEC have no transition, and RESET and LOAD alone leave it. -/
theorem HostOp.Leaves.faulted {op : HostOp} {s t : State} (h : op.Leaves s t) (hs : s.faulted = true) :
    t.faulted = true ∨ op = .reset ∨ ∃ records labels, op = .load records labels := by
  cases op with
  | load records labels => exact .inr (.inr ⟨records, labels, rfl⟩)
  | reset => exact .inr (.inl rfl)
  | step =>
    obtain ⟨-, hf, -⟩ := stepWith_eq_next h
    rw [hs] at hf
    cases hf
  | exec rec =>
    obtain ⟨hf, -⟩ := hostExec_eq_next h
    rw [hs] at hf
    cases hf
  | kbdPop =>
    obtain rfl := h
    exact .inl ((hostKbdPop_faulted s).trans hs)
  | readIo addr =>
    obtain rfl := h
    exact .inl ((hostReadIo_faulted s addr).trans hs)
  | writeIo addr v =>
    obtain rfl := h
    exact .inl ((hostWriteIo_faulted s addr v).trans hs)
  | _ =>
    obtain rfl := h
    exact .inl hs

/-- Settles O27: what an error fixes, which operations leave the Faulted state, and the errors of device accesses. -/
theorem faultFrame : Obligations.FaultFrame := by
  unfold Obligations.FaultFrame
  refine ⟨fun s t _ ran ht => ?fixes, fun op s t r hs h ht => ?leaving, fun s addr v outside => ?io⟩
  case fixes =>
    have took : TookFault s t := by
      obtain h | ⟨rec, h⟩ := ran
      · exact step_tookFault h ht
      · exact hostExec_tookFault h ht
    obtain ⟨halted, report, pc, cs, console, ⟨-, mode, running, -, bps, prog, labels⟩⟩ := took
    exact ⟨halted, report, pc, cs, mode, console, bps, prog, labels, running⟩
  case leaving =>
    obtain still | left := (hostStep_leaves h).faulted hs
    · rw [ht] at still
      cases still
    · exact left
  case io => simp [hostReadIo, hostWriteIo, outside]

end Sys2Proof.Machine
end

section
/-! # The verdict

The checks of 60_exceptions.md R219 decide how every instruction ends. `Run.EndsAs` says that a run ends as a verdict
says; one lemma for each operation puts that operation's check in front of those after it, and each handler is the
operations of its verdict's checks, in their order. -/

namespace Sys2Proof.Machine

-- ## The first check that fails

/-- The first check that fails decides, and with none the instruction completes. -/
def firstFailing (checks : List (Option Verdict)) : Verdict := (checks.findSome? id).getD .completes

@[simp] theorem firstFailing_nil : firstFailing [] = .completes := rfl

@[simp] theorem firstFailing_none (checks : List (Option Verdict)) :
    firstFailing (none :: checks) = firstFailing checks := rfl

@[simp] theorem firstFailing_some (v : Verdict) (checks : List (Option Verdict)) :
    firstFailing (some v :: checks) = v := rfl

/-- The check of some reads (20_memory.md R54). -/
def loadCheck (s : State) (accesses : List (Word × Nat)) : Option Verdict :=
  if accesses.any (fun p => mixedMmio s.cfg p.1.toNat p.2) then some (.refuses .mixedMmioAccess) else none

/-- The checks of a write (20_memory.md R54, R56). -/
def storeCheck (s : State) : Option (Word × Nat) → Option Verdict
  | none => none
  | some (a, n) =>
    if isMmio s.cfg a.toNat then none
    else if touchesMmio s.cfg a.toNat n then some (.refuses .mixedMmioAccess)
    else if a.toNat + n ≤ s.cfg.memSize then none
    else some (.raises (.memoryOutOfRange (max a.toNat s.cfg.memSize)))

/-- The check of a label (48_control_flow.md R183). -/
def labelCheck (s : State) (m : Mnemonic) (name : Text) : Option Verdict :=
  match s.labels.lookup name with
  | some _ => none
  | none => some (.raises (.controlFlowFault m name))

theorem loadVerdict_eq (i : Instr) (s : State) : loadVerdict i s = loadCheck s (loads i s) := rfl

theorem storeVerdict_eq (i : Instr) (s : State) : storeVerdict i s = storeCheck s (stores i s) := rfl

/-- Reads one after the other are checked one after the other. -/
theorem firstFailing_loadCheck_append (s : State) (before after : List (Word × Nat)) (checks : List (Option Verdict)) :
    firstFailing (loadCheck s (before ++ after) :: checks) =
      firstFailing (loadCheck s before :: loadCheck s after :: checks) := by
  unfold loadCheck
  rw [List.any_append]
  cases before.any _ <;> rfl

-- ## How a run ends

/-- The run ends as the verdict says, and an error that comes before anything is done is raised in the state `s`. -/
def Run.EndsAs {α : Type} (s : State) (v : Verdict) : Run α → Prop
  | .done _ _ => v = .completes
  | .raised e t => v = .raises e ∧ (e.early = true → t = s)
  | .refused r => v = .refuses r

section
variable {s t u : State} {v : Verdict} {checks : List (Option Verdict)}

/-- What completes after a run leaves its verdict. -/
theorem Run.EndsAs.then_done {α β : Type} {x : Run α} (hx : x.EndsAs s v) {f : α → β} {g : α → State → State} :
    (x.bind fun a t => Run.done (f a) (g a t)).EndsAs s v := by
  cases x with
  | done a t | raised e t | refused r => exact hx

-- ## Memory and operands

theorem memRead_endsAs (hc : t.cfg = s.cfg) (a : Word) (n : Nat) {k : Word → State → Run Unit}
    (hk : (k (memPeek t a n) (memTouch t a)).EndsAs s (firstFailing checks)) :
    ((memRead t a n).bind k).EndsAs s (firstFailing (loadCheck s [(a, n)] :: checks)) := by
  unfold memRead memReadOk loadCheck
  rw [hc, List.any_cons, List.any_nil, Bool.or_false]
  cases mixedMmio s.cfg a.toNat n with
  | false => exact hk
  | true => rfl

theorem readOp_endsAs (hc : t.cfg = s.cfg) (hr : t.regs = s.regs) (op : Operand) {k : Word → State → Run Unit}
    (hk : (k (peek t op) (touch t op)).EndsAs s (firstFailing checks)) :
    ((readOp t op).bind k).EndsAs s (firstFailing (loadCheck s (access s op) :: checks)) := by
  cases op with
  | mem m =>
    rw [access, ← ea_congr hr]
    exact memRead_endsAs hc _ 4 hk
  | _ => exact hk

theorem memWrite_endsAs (hc : t.cfg = s.cfg) (a : Word) (n : Nat) (v : Word) :
    (memWrite t a n v).EndsAs s (firstFailing [storeCheck s (some (a, n))]) := by
  cases hm : isMmio s.cfg a.toNat with
  | true => simp [memWrite, memWriteOk, mixedMmio, storeCheck, hc, hm, Run.EndsAs]
  | false =>
    cases ht : touchesMmio s.cfg a.toNat n with
    | true => simp [memWrite, mixedMmio, storeCheck, hc, hm, ht, Run.EndsAs]
    | false =>
      by_cases inside : a.toNat + n ≤ s.cfg.memSize
      · simp [memWrite, memWriteOk, mixedMmio, storeCheck, hc, hm, ht, inside, Run.EndsAs]
      · simp [memWrite, memWriteOk, mixedMmio, storeCheck, hc, hm, ht, inside, Run.EndsAs, EngineFault.early]

/-- The store that writing an operand makes, with the registers of `u`. -/
def operandStore (u : State) : Operand → Option (Word × Nat)
  | .mem m => some (ea u m, 4)
  | _ => none

theorem writeOp_endsAs (hc : t.cfg = s.cfg) (hr : t.regs = u.regs) (op : Operand) (v : Word) :
    (writeOp t op v).EndsAs s (firstFailing [storeCheck s (operandStore u op)]) := by
  cases op with
  | mem m =>
    rw [operandStore, ← ea_congr hr]
    exact memWrite_endsAs hc _ 4 v
  | _ => rfl

theorem destStore_eq (s : State) (dst src : Operand) : destStore s [dst, src] = operandStore s dst := by
  cases dst <;> rfl

theorem onlyStore_eq (s : State) (dst : Operand) : onlyStore s [dst] = operandStore s dst := by
  cases dst <;> rfl

theorem popStore_eq (s : State) (dst : Operand) :
    popStore s [dst] = operandStore (setReg s .esp (getReg s .esp + 4)) dst := by
  cases dst <;> rfl

-- ## Counts, tokens and forms

theorem wrongCount_endsAs {i : Instr} (h : i.arity ≠ declaredCount i.mnemonic) (s : State) :
    (wrongCount i.mnemonic i.arity s).EndsAs s (firstFailing (countVerdict i s :: checks)) := by
  rw [wrongCount, countVerdict, if_neg h]
  split
  · rfl
  · cases s.cfg.countPolicy with
    | noop => rfl
    | fault => exact ⟨rfl, fun _ => rfl⟩

theorem resolved_endsAs {ops : List Operand} {go : Run Unit} (h : go.EndsAs s (firstFailing checks)) :
    (resolved ops s go).EndsAs s (firstFailing (tokenVerdict ops :: checks)) := by
  induction ops with
  | nil => exact h
  | cons op ops ih =>
    cases op with
    | malformed tok => exact ⟨rfl, fun _ => rfl⟩
    | unshown tok => rfl
    | _ => exact ih

theorem formCheck_endsAs {i : Instr} {wide narrow : Run Unit}
    (hw : formOf i s = .wide → wide.EndsAs s (firstFailing checks))
    (hn : formOf i s = .narrow → narrow.EndsAs s (firstFailing checks)) :
    ((formOf i s).check s wide narrow).EndsAs s (firstFailing (formVerdict i s :: checks)) := by
  unfold formVerdict
  cases h : formOf i s with
  | wide => exact hw h
  | narrow => exact hn h
  | noop | reject r => rfl

end

-- ## The checks after the form

/-- The checks after the form's, but for the label's, in their order (60_exceptions.md R219). -/
def lateChecks (i : Instr) (s : State) : List (Option Verdict) :=
  [modeVerdict i s, zeroCountVerdict i s, loadVerdict i s, divideVerdict i s, storeVerdict i s]

theorem labelVerdict_of_no_target {i : Instr} (h : i.targets = []) (s : State) : labelVerdict i s = none := by
  rw [labelVerdict, h]

/-- With the declared count and no label, the tokens, the form and what comes after them decide. -/
theorem verdict_of_arity {i : Instr} (ha : i.arity = declaredCount i.mnemonic) (ht : i.targets = []) (s : State) :
    verdict i s = firstFailing (tokenVerdict i.operands :: formVerdict i s :: lateChecks i s) := by
  have count : countVerdict i s = none := if_pos ha
  have before (checks : List (Option Verdict)) : firstFailing (checks ++ [none]) = firstFailing checks := by
    simp [firstFailing, List.findSome?_append]
  rw [← before, verdict, count, labelVerdict_of_no_target ht]
  rfl

theorem zeroCountVerdict_of_not_shift {i : Instr} (h : shiftMnemonics.contains i.mnemonic = false) (s : State) :
    zeroCountVerdict i s = none := by
  unfold zeroCountVerdict
  rw [h]
  split <;> rfl

/-- A shift or rotate by a multiple of 32 is checked for a device (44_shift_rotate.md R150). -/
theorem zeroCountVerdict_of_shift {i : Instr} {dst count : Operand} (h : shiftMnemonics.contains i.mnemonic = true)
    (hops : i.operands = [dst, count]) (s : State) : zeroCountVerdict i s =
      if maskedCount s count == 0 && mmioOperand s dst then some (.refuses .zeroCountMmio) else none := by
  unfold zeroCountVerdict
  rw [hops]
  cases dst with
  | mem m =>
    dsimp only
    rw [h, Bool.true_and]
    rfl
  | _ => simp [mmioOperand]

/-- MOV between two memory operands is checked for the mode (41_data_movement.md R114). -/
theorem modeVerdict_mov (dst src : Operand) (s : State) : modeVerdict (.mov [dst, src]) s =
    if (bothMem dst src && s.mode == .strict) = true then some (.raises .modePolicyError) else none := by
  cases dst with
  | mem m =>
    cases src with
    | mem m' => simp [modeVerdict, bothMem]
    | _ => rfl
  | _ => rfl

section
variable {i : Instr} {s : State} (hz : shiftMnemonics.contains i.mnemonic = false)
include hz

theorem firstFailing_lateChecks : firstFailing (lateChecks i s) =
    firstFailing [modeVerdict i s, loadCheck s (loads i s), divideVerdict i s, storeCheck s (stores i s)] := by
  rw [lateChecks, zeroCountVerdict_of_not_shift hz, loadVerdict_eq, storeVerdict_eq]
  cases modeVerdict i s <;> rfl

variable (hm : modeVerdict i s = none)
include hm

theorem firstFailing_lateChecks_divide : firstFailing (lateChecks i s) =
    firstFailing [loadCheck s (loads i s), divideVerdict i s, storeCheck s (stores i s)] := by
  rw [firstFailing_lateChecks hz, hm, firstFailing_none]

/-- Of most instructions only the reads and the write are checked after the form. -/
theorem firstFailing_lateChecks_plain (hd : divideVerdict i s = none) :
    firstFailing (lateChecks i s) = firstFailing [loadCheck s (loads i s), storeCheck s (stores i s)] := by
  rw [firstFailing_lateChecks_divide hz hm, hd]
  cases loadCheck s (loads i s) <;> rfl

end

/-- Of a shift or rotate the zero count on a device is checked too. -/
theorem firstFailing_lateChecks_shift {i : Instr} {s : State} {dst count : Operand}
    (hz : shiftMnemonics.contains i.mnemonic = true) (hops : i.operands = [dst, count])
    (hm : modeVerdict i s = none) (hd : divideVerdict i s = none) : firstFailing (lateChecks i s) =
      firstFailing [if maskedCount s count == 0 && mmioOperand s dst then some (.refuses .zeroCountMmio) else none,
        loadCheck s (loads i s), storeCheck s (stores i s)] := by
  rw [lateChecks, hm, zeroCountVerdict_of_shift hz hops, loadVerdict_eq, storeVerdict_eq, hd, firstFailing_none]
  split
  · rfl
  · cases loadCheck s (loads i s) <;> rfl

-- ## Handlers that check as the verdict does

/-- The run checks the tokens of the operands, then the form, and goes on, in an admitted form, as the verdict says. -/
def Checked (x : Run Unit) (ops : List Operand) (s : State) (f : Form) (v : Verdict) : Prop :=
  ∃ wide narrow, (f = .wide → wide.EndsAs s v) ∧ (f = .narrow → narrow.EndsAs s v) ∧
    x = resolved ops s (f.check s wide narrow)

theorem checked {ops : List Operand} {s : State} {f : Form} {v : Verdict} {wide narrow : Run Unit}
    (hw : f = .wide → wide.EndsAs s v) (hn : f = .narrow → narrow.EndsAs s v) :
    Checked (resolved ops s (f.check s wide narrow)) ops s f v := ⟨wide, narrow, hw, hn, rfl⟩

/-- What a handler does alike in both widths. -/
theorem checked_same {ops : List Operand} {s : State} {f : Form} {v : Verdict} {body : Run Unit}
    (h : f = .wide ∨ f = .narrow → body.EndsAs s v) : Checked (resolved ops s (f.check s body body)) ops s f v :=
  checked (fun hf => h (.inl hf)) fun hf => h (.inr hf)

/-- An instruction of no operand has one form. -/
theorem bare_checked {s : State} {v : Verdict} {go : Run Unit} (h : go.EndsAs s v) : Checked go [] s .wide v :=
  ⟨go, go, fun _ => h, fun _ => h, rfl⟩

-- ## The shared frames

section
variable {m : Mnemonic} {s : State} {a b : Operand} {checks : List (Option Verdict)}

/-- Both operands are read, the source first. -/
theorem readBoth_endsAs {k : Word → Word → State → Run Unit}
    (hk : (k (peek s b) (peek (touch s b) a) (touch (touch s b) a)).EndsAs s (firstFailing checks)) :
    ((readOp s b).bind fun v u => (readOp u a).bind fun d t => k v d t).EndsAs s
      (firstFailing (loadCheck s (bothLoads s [a, b]) :: checks)) := by
  rw [bothLoads, firstFailing_loadCheck_append]
  exact readOp_endsAs rfl rfl b (readOp_endsAs (touch_cfg ..) (touch_regs ..) a hk)

theorem binaryOp_checked {f : Word → Word → Word} {fl : Word → Word → Word → Word → Word} {op : ByteOp} :
    Checked (binaryOp m f fl op [a, b] s) [a, b] s (formBinary a b)
      (firstFailing [loadCheck s (bothLoads s [a, b]), storeCheck s (destStore s [a, b])]) := by
  rw [destStore_eq]
  exact checked (fun _ => readBoth_endsAs (writeOp_endsAs (by simp) (by simp) a _).then_done)
    fun _ => readBoth_endsAs (writeOp_endsAs (by simp) (by simp) a _).then_done

theorem compareOp_checked {f : Word → Word → Word} {fl : Word → Word → Word → Word → Word} {op : ByteOp} :
    Checked (compareOp m f fl op [a, b] s) [a, b] s (formBinary a b)
      (firstFailing [loadCheck s (bothLoads s [a, b]), storeCheck s none]) :=
  checked (fun _ => readBoth_endsAs rfl) fun _ => readBoth_endsAs rfl

theorem unaryOp_checked {f : Word → Word} {fl : Word → Word → Word → Word} {op : ByteOp} {c : Byte} :
    Checked (unaryOp m f fl op c [a] s) [a] s (formUnary a)
      (firstFailing [loadCheck s (onlyLoad s [a]), storeCheck s (onlyStore s [a])]) := by
  rw [onlyStore_eq]
  exact checked (fun _ => readOp_endsAs rfl rfl a (writeOp_endsAs (by simp) (by simp) a _).then_done)
    fun _ => readOp_endsAs rfl rfl a (writeOp_endsAs (by simp) (by simp) a _).then_done

/-- A value read from the source and written to the destination. -/
theorem move_endsAs : ((readOp s b).bind fun v u => writeOp u a v).EndsAs s
    (firstFailing [loadCheck s (access s b), storeCheck s (operandStore s a)]) :=
  readOp_endsAs rfl rfl b (writeOp_endsAs (touch_cfg ..) (touch_regs ..) a _)

/-- A CMOVcc reads its source when the condition holds, and its destination is a register. -/
theorem cmov_checked {c : Cond} : Checked (cmov m c [a, b] s) [a, b] s (formCmov s a b)
    (firstFailing [loadCheck s (cmovLoad s c [a, b]), storeCheck s none]) := by
  refine checked_same fun hf => ?_
  obtain ⟨r, rfl⟩ := formCmov_wide (hf.resolve_right (formCmov_ne_narrow s a b))
  rw [show cmovLoad s c [.reg32 r, b] = if holds c s.flags then access s b else [] from rfl]
  split
  · exact move_endsAs
  · rfl

theorem scanOp_checked {index : Word → Nat} : Checked (scanOp m index [a, b] s) [a, b] s (formScan a b)
    (firstFailing [loadCheck s (sourceLoad s [a, b]), storeCheck s none]) := by
  refine checked_same fun _ => readOp_endsAs rfl rfl b ?_
  split <;> rfl

theorem formShift_ne_narrow (dst count : Operand) : formShift dst count ≠ .narrow := by
  cases dst <;> cases count <;> simp [formShift, Form.never, Form.byteOnly]

/-- A shift or rotate looks at its count, then at its destination (44_shift_rotate.md R150). -/
theorem shiftOp_checked {f : Word → Word → Nat → Word} {fl : State → Word → Nat → Nat → Word → Word} :
    Checked (shiftOp m f fl [a, b] s) [a, b] s (formShift a b)
      (firstFailing [if maskedCount s b == 0 && mmioOperand s a then some (.refuses .zeroCountMmio) else none,
        loadCheck s (shiftLoad s [a, b]), storeCheck s (shiftStore s [a, b])]) := by
  refine checked_same fun hf => ?_
  obtain ⟨readable, touched⟩ := formShift_count (hf.resolve_right (formShift_ne_narrow a b)) s
  rw [readOp_of_ok readable, Run.bind_done, touched]
  by_cases zero : maskedCount s b = 0
  · have store : shiftStore s [a, b] = none := by cases a <;> simp [shiftStore, zero]
    rw [if_pos (show (peek s b).toNat % 32 = 0 from zero), shiftLoad, if_pos zero, store]
    cases mmioOperand s a <;> simp [zero, Run.EndsAs, loadCheck, storeCheck]
  · have store : shiftStore s [a, b] = operandStore s a := by cases a <;> simp [shiftStore, zero, operandStore]
    have check : (maskedCount s b == 0 && mmioOperand s a) = false := by simp [zero]
    rw [if_neg (show ¬(peek s b).toNat % 32 = 0 from zero), shiftLoad, if_neg zero, store, check,
      if_neg Bool.false_ne_true, firstFailing_none]
    exact readOp_endsAs rfl rfl a (writeOp_endsAs (by simp) (by simp) a _).then_done

theorem accumulatorOp_checked {go : Word → State → Run Unit}
    (h : (go (peek s a) (touch s a)).EndsAs s (firstFailing checks)) :
    Checked (accumulatorOp m [a] s go) [a] s (formRegMem a) (firstFailing (loadCheck s (onlyLoad s [a]) :: checks)) :=
  checked_same fun _ => readOp_endsAs rfl rfl a h

end

-- ## The handlers that have a frame of their own

section
variable {s : State} {a b : Operand}

/-- MOV looks at the mode before it reads (41_data_movement.md R114). -/
theorem handleMov_checked : Checked (handleMov [a, b] s) [a, b] s (formMov a b)
    (firstFailing [modeVerdict (.mov [a, b]) s, loadCheck s (sourceLoad s [a, b]),
      storeCheck s (destStore s [a, b])]) := by
  refine checked_same fun _ => ?_
  rw [modeVerdict_mov, destStore_eq]
  split
  · exact ⟨rfl, fun _ => rfl⟩
  · exact move_endsAs

theorem handleXadd_checked : Checked (handleXadd [a, b] s) [a, b] s (formXadd a b)
    (firstFailing [loadCheck s [], storeCheck s none]) := checked_same fun _ => rfl

theorem handlePush_checked : Checked (handlePush [a] s) [a] s (formPush a)
    (firstFailing [loadCheck s (onlyLoad s [a]), storeCheck s (pushStore s [a])]) := by
  refine checked_same fun _ => readOp_endsAs rfl rfl a ?_
  rw [getReg_touch]
  refine memWrite_endsAs ?_ ..
  exact touch_cfg s a

theorem handlePop_checked : Checked (handlePop [a] s) [a] s (formRegMem a)
    (firstFailing [loadCheck s (stackLoad s [a]), storeCheck s (popStore s [a])]) := by
  rw [popStore_eq]
  refine checked_same fun _ => memRead_endsAs rfl (getReg s .esp) 4 ?_
  rw [getReg_memTouch]
  refine writeOp_endsAs (u := setReg s .esp (getReg s .esp + 4)) ?_ ?_ a _
  · exact memTouch_cfg s _
  · rw [setReg_regs, setReg_regs, memTouch_regs]

/-- BSWAP has a register operand. -/
theorem handleBswap_checked : Checked (handleBswap [a] s) [a] s (formBswap a)
    (firstFailing [loadCheck s [], storeCheck s none]) := by
  refine checked_same fun hf => ?_
  cases a with
  | reg32 r => rfl
  | _ => rcases hf with hf | hf <;> cases hf

/-- INT has an immediate operand. -/
theorem handleInt_checked : Checked (handleInt [a] s) [a] s (formInt a)
    (firstFailing [loadCheck s [], storeCheck s none]) := by
  refine checked_same fun hf => ?_
  cases a with
  | imm v => rfl
  | _ => rcases hf with hf | hf <;> cases hf

/-- DIV looks at its divisor, then at EDX (45_multiply_divide.md R161, R162). -/
theorem handleDiv_checked : Checked (handleDiv [a] s) [a] s (formRegMem a)
    (firstFailing [loadCheck s (onlyLoad s [a]), divideVerdict (.div [a]) s, storeCheck s none]) := by
  refine accumulatorOp_checked ?_
  rw [divideVerdict, getReg_touch]
  by_cases zero : peek s a = 0
  · rw [if_pos zero, if_neg fun h => h.1 zero]
    rfl
  · rw [if_neg zero]
    by_cases extended : getReg s .edx = 0
    · rw [if_neg (not_not.mpr extended), if_neg fun h => h.2 extended]
      rfl
    · rw [if_pos extended, if_pos ⟨zero, extended⟩]
      rfl

/-- IDIV looks at its divisor, then at EDX, then at the quotient that does not fit (45_multiply_divide.md R161,
R163). -/
theorem handleIdiv_checked : Checked (handleIdiv [a] s) [a] s (formRegMem a)
    (firstFailing [loadCheck s (onlyLoad s [a]), divideVerdict (.idiv [a]) s, storeCheck s none]) := by
  refine accumulatorOp_checked ?_
  rw [divideVerdict, getReg_touch, getReg_touch]
  split
  · rfl
  · split
    · rfl
    · split <;> rfl

theorem handleLods_checked : Checked (handleLods [] s) [] s .wide
    (firstFailing [loadCheck s (bareLoads [(getReg s .esi, 1)] []), storeCheck s none]) :=
  bare_checked (memRead_endsAs rfl _ 1 rfl)

theorem handleScas_checked : Checked (handleScas [] s) [] s .wide
    (firstFailing [loadCheck s (bareLoads [(getReg s .edi, 1)] []), storeCheck s none]) :=
  bare_checked (memRead_endsAs rfl _ 1 rfl)

theorem handleStos_checked : Checked (handleStos [] s) [] s .wide
    (firstFailing [loadCheck s [], storeCheck s (byteStore s [])]) :=
  bare_checked (memWrite_endsAs rfl _ 1 _).then_done

theorem handleMovs_checked : Checked (handleMovs [] s) [] s .wide
    (firstFailing [loadCheck s (bareLoads [(getReg s .esi, 1)] []), storeCheck s (byteStore s [])]) := by
  refine bare_checked (memRead_endsAs rfl _ 1 ?_)
  rw [getReg_memTouch]
  exact (memWrite_endsAs (memTouch_cfg s _) _ 1 _).then_done

theorem handleCmps_checked : Checked (handleCmps [] s) [] s .wide
    (firstFailing [loadCheck s (bareLoads [(getReg s .esi, 1), (getReg s .edi, 1)] []), storeCheck s none]) := by
  have inOrder : bareLoads [(getReg s .esi, 1), (getReg s .edi, 1)] [] = [(getReg s .esi, 1)] ++ [(getReg s .edi, 1)] :=
    rfl
  rw [inOrder, firstFailing_loadCheck_append]
  refine bare_checked (memRead_endsAs rfl _ 1 ?_)
  rw [getReg_memTouch]
  exact memRead_endsAs (memTouch_cfg s _) _ 1 rfl

end

-- ## Every handler

/-- Every handler outside the control flow checks what the verdict checks, in its order (60_exceptions.md R219). -/
theorem handler_checked {i : Instr} (hc : i.mnemonic ∉ controlMnemonics) (ha : i.arity = declaredCount i.mnemonic)
    (s : State) : Checked (handler i s) i.operands s (formOf i s) (firstFailing (lateChecks i s)) := by
  cases i with
  | jmp ops | je ops | jne ops | jg ops | jge ops | jl ops | jle ops | js ops | jns ops | ja ops | jae ops | jb ops
  | jbe ops | call ops | ret ops | loop ops | loope ops | loopne ops | loopz ops | loopnz ops =>
    exact absurd (by simp [Instr.mnemonic, controlMnemonics]) hc
  | lahf ops | sahf ops | int3 ops | iret ops | hlt ops =>
    obtain rfl := List.length_eq_zero_iff.mp ha
    exact bare_checked rfl
  | lods ops =>
    obtain rfl := List.length_eq_zero_iff.mp ha
    rw [firstFailing_lateChecks_plain rfl rfl rfl]
    exact handleLods_checked
  | scas ops =>
    obtain rfl := List.length_eq_zero_iff.mp ha
    rw [firstFailing_lateChecks_plain rfl rfl rfl]
    exact handleScas_checked
  | stos ops =>
    obtain rfl := List.length_eq_zero_iff.mp ha
    rw [firstFailing_lateChecks_plain rfl rfl rfl]
    exact handleStos_checked
  | movs ops =>
    obtain rfl := List.length_eq_zero_iff.mp ha
    rw [firstFailing_lateChecks_plain rfl rfl rfl]
    exact handleMovs_checked
  | cmps ops =>
    obtain rfl := List.length_eq_zero_iff.mp ha
    rw [firstFailing_lateChecks_plain rfl rfl rfl]
    exact handleCmps_checked
  | push ops =>
    obtain ⟨a, rfl⟩ := List.length_eq_one_iff.mp ha
    rw [firstFailing_lateChecks_plain rfl rfl rfl]
    exact handlePush_checked
  | pop ops =>
    obtain ⟨a, rfl⟩ := List.length_eq_one_iff.mp ha
    rw [firstFailing_lateChecks_plain rfl rfl rfl]
    exact handlePop_checked
  | bswap ops =>
    obtain ⟨a, rfl⟩ := List.length_eq_one_iff.mp ha
    rw [firstFailing_lateChecks_plain rfl rfl rfl]
    exact handleBswap_checked
  | int ops =>
    obtain ⟨a, rfl⟩ := List.length_eq_one_iff.mp ha
    rw [firstFailing_lateChecks_plain rfl rfl rfl]
    exact handleInt_checked
  | inc ops | dec ops | neg ops =>
    obtain ⟨a, rfl⟩ := List.length_eq_one_iff.mp ha
    rw [firstFailing_lateChecks_plain rfl rfl rfl]
    simp only [handler, handleInc, handleDec, handleNeg]
    exact unaryOp_checked
  | mul ops | imul ops =>
    obtain ⟨a, rfl⟩ := List.length_eq_one_iff.mp ha
    rw [firstFailing_lateChecks_plain rfl rfl rfl]
    simp only [handler, handleMul, handleImul]
    exact accumulatorOp_checked rfl
  | div ops =>
    obtain ⟨a, rfl⟩ := List.length_eq_one_iff.mp ha
    rw [firstFailing_lateChecks_divide rfl rfl]
    exact handleDiv_checked
  | idiv ops =>
    obtain ⟨a, rfl⟩ := List.length_eq_one_iff.mp ha
    rw [firstFailing_lateChecks_divide rfl rfl]
    exact handleIdiv_checked
  | mov ops =>
    obtain ⟨a, b, rfl⟩ := List.length_eq_two.mp ha
    rw [firstFailing_lateChecks rfl]
    exact handleMov_checked
  | xadd ops =>
    obtain ⟨a, b, rfl⟩ := List.length_eq_two.mp ha
    rw [firstFailing_lateChecks_plain rfl rfl rfl]
    exact handleXadd_checked
  | add ops | sub ops | and ops | or ops | xor ops =>
    obtain ⟨a, b, rfl⟩ := List.length_eq_two.mp ha
    rw [firstFailing_lateChecks_plain rfl rfl rfl]
    simp only [handler, handleAdd, handleSub, handleAnd, handleOr, handleXor]
    exact binaryOp_checked
  | cmp ops | test ops =>
    obtain ⟨a, b, rfl⟩ := List.length_eq_two.mp ha
    rw [firstFailing_lateChecks_plain rfl rfl rfl]
    simp only [handler, handleCmp, handleTest]
    exact compareOp_checked
  | bsf ops | bsr ops =>
    obtain ⟨a, b, rfl⟩ := List.length_eq_two.mp ha
    rw [firstFailing_lateChecks_plain rfl rfl rfl]
    simp only [handler, handleBsf, handleBsr]
    exact scanOp_checked
  | shl ops | shr ops | sar ops | rol ops | ror ops | rcl ops | rcr ops =>
    obtain ⟨a, b, rfl⟩ := List.length_eq_two.mp ha
    rw [firstFailing_lateChecks_shift rfl rfl rfl rfl]
    simp only [handler, handleShl, handleShr, handleSar, handleRol, handleRor, handleRcl, handleRcr]
    exact shiftOp_checked
  | _ ops =>
    obtain ⟨a, b, rfl⟩ := List.length_eq_two.mp ha
    rw [firstFailing_lateChecks_plain rfl rfl rfl]
    simp only [handler, handleCmovo, handleCmovno, handleCmovb, handleCmovae, handleCmove, handleCmovz, handleCmovne,
      handleCmovnz, handleCmovbe, handleCmova, handleCmovs, handleCmovns, handleCmovl, handleCmovge, handleCmovle,
      handleCmovg]
    exact cmov_checked

/-- A handler that checks as the verdict does ends as it says. -/
theorem handler_endsAs {i : Instr} (hc : i.mnemonic ∉ controlMnemonics) (ha : i.arity = declaredCount i.mnemonic)
    (s : State) :
    (handler i s).EndsAs s (firstFailing (tokenVerdict i.operands :: formVerdict i s :: lateChecks i s)) := by
  obtain ⟨wide, narrow, hw, hn, handled⟩ := handler_checked hc ha s
  rw [handled]
  exact resolved_endsAs (formCheck_endsAs hw hn)

-- ## The outcome

/-- The outcome is the one that the verdict says, in the state `s`. -/
def Verdict.Decides (v : Verdict) (s : State) (o : Host.Outcome State Fault Refusal) : Prop :=
  match v with
  | .completes => ∃ t, o = .next t ∧ t.faulted = s.faulted ∧ t.report = s.report
  | .raises e => ∃ t, o = .next (takeFault e t) ∧ (e.early = true → t = s)
  | .refuses r => o = .refused r

section
variable {i : Instr} {s : State}

theorem targets_of_not_control (hc : i.mnemonic ∉ controlMnemonics) : i.targets = [] := by
  cases i with
  | jmp ops | je ops | jne ops | jg ops | jge ops | jl ops | jle ops | js ops | jns ops | ja ops | jae ops | jb ops
  | jbe ops | call ops | ret ops | loop ops | loope ops | loopne ops | loopz ops | loopnz ops =>
    exact absurd (by simp [Instr.mnemonic, controlMnemonics]) hc
  | _ ops => rfl

/-- What the verdict says of a handler it says of an instruction that falls through. -/
theorem decides_of_endsAs {v : Verdict} (hc : i.mnemonic ∉ controlMnemonics) (h : (handler i s).EndsAs s v) :
    v.Decides s (exec i s) := by
  rw [exec_eq_advance hc]
  cases handled : handler i s with
  | done a u =>
    rw [handled] at h
    obtain rfl : v = .completes := h
    have within := ((handler_ends i s).of_done handled).dataOnly
    exact ⟨_, rfl, by rw [setPc_faulted, within], by rw [setPc_report, within]⟩
  | raised e u =>
    rw [handled] at h
    obtain ⟨rfl, early⟩ := h
    exact ⟨u, rfl, early⟩
  | refused r =>
    rw [handled] at h
    obtain rfl : v = .refuses r := h
    rfl

/-- A wrong operand count decides alone (30_encoding.md R88, R89). -/
theorem decides_of_wrongCount (ha : i.arity ≠ declaredCount i.mnemonic) : (verdict i s).Decides s (exec i s) := by
  by_cases hc : i.mnemonic ∈ controlMnemonics
  · have refuses : countRefused i.mnemonic i.arity = true := countRefused_iff.mpr (.inl hc)
    have decided : verdict i s = .refuses .formNotAdmitted := by
      rw [verdict, countVerdict, if_neg ha, if_pos refuses]
      rfl
    rw [decided, exec_of_handler_refused ((handler_wrongCount ha s).trans (wrongCount_of_refused refuses s))]
    rfl
  · refine decides_of_endsAs hc ?_
    rw [handler_wrongCount ha]
    exact wrongCount_endsAs ha s

/-- The label decides how a branch ends, whatever its condition (48_control_flow.md R183). -/
theorem branch_decides {m : Mnemonic} {name : Text} {effect : State → State} {go : Nat → State → State}
    (labels : (effect s).labels = s.labels)
    (keeps : ∀ target, (go target (effect s)).faulted = s.faulted ∧ (go target (effect s)).report = s.report) :
    (firstFailing [labelCheck s m name]).Decides s (finish (branch m [name] (oneLabel [name] s effect) go)) := by
  unfold labelCheck
  cases found : s.labels.lookup name with
  | some target =>
    rw [finish_branch_found (by rwa [labels])]
    exact ⟨_, rfl, keeps target⟩
  | none =>
    rw [branch_missing (by rwa [labels]), finish_raised]
    exact ⟨_, rfl, nofun⟩

/-- An instruction with one label is checked for that label alone. -/
theorem decides_of_control (hc : i.mnemonic ∈ controlMnemonics) (ha : i.arity = declaredCount i.mnemonic) :
    (verdict i s).Decides s (exec i s) := by
  cases i with
  | jmp ops | je ops | jne ops | jg ops | jge ops | jl ops | jle ops | js ops | jns ops | ja ops | jae ops | jb ops
  | jbe ops | call ops | loop ops | loope ops | loopne ops | loopz ops | loopnz ops =>
    obtain ⟨name, rfl⟩ := List.length_eq_one_iff.mp ha
    exact branch_decides rfl fun _ => ⟨rfl, rfl⟩
  | ret ops =>
    obtain rfl := List.length_eq_zero_iff.mp ha
    exact ⟨returnTo s, rfl, faulted_returnTo s, report_returnTo s⟩
  | _ ops => exact absurd hc (by simp [Instr.mnemonic, controlMnemonics])

/-- The first failing check decides how every instruction ends (60_exceptions.md R219). -/
theorem verdict_decides (i : Instr) (s : State) : (verdict i s).Decides s (exec i s) := by
  by_cases ha : i.arity = declaredCount i.mnemonic
  · by_cases hc : i.mnemonic ∈ controlMnemonics
    · exact decides_of_control hc ha
    · rw [verdict_of_arity ha (targets_of_not_control hc)]
      exact decides_of_endsAs hc (handler_endsAs hc ha s)
  · exact decides_of_wrongCount ha

end

/-- Settles O20: the outcome that the verdict decides. -/
theorem verdictOfEveryInstruction : Obligations.VerdictOfEveryInstruction := by
  unfold Obligations.VerdictOfEveryInstruction
  intro i s
  have decides := verdict_decides i s
  cases hv : verdict i s with
  | completes =>
    rw [hv] at decides
    exact decides
  | raises e =>
    rw [hv] at decides
    obtain ⟨t, executed, -⟩ := decides
    exact ⟨_, executed, takeFault_faulted .., takeFault_report ..⟩
  | refuses r =>
    rw [hv] at decides
    exact decides

/-- Settles O28: an early error is raised in the state before the instruction, and an early fault keeps the rest. -/
theorem earlyFaultsChangeNothing : Obligations.EarlyFaultsChangeNothing := by
  unfold Obligations.EarlyFaultsChangeNothing
  intro i s t e hv early executed
  have decides := verdict_decides i s
  rw [hv] at decides
  obtain ⟨u, raised, unchanged⟩ := decides
  obtain rfl := unchanged early
  rw [raised] at executed
  cases executed
  exact takeFault_early u e early

end Sys2Proof.Machine
end
